-- ==== Sys2Proof/Word.lean ====
section
/-! DEFINITION. The words of the CHIP-8 core: bytes, 16-bit words, register numbers (00_scope.md R12, R13; 10_state.md R20). -/

namespace Sys2Proof

/-- A byte: a V register, a timer, a cell of memory (R20, R30, R35). -/
abbrev Byte := BitVec 8

/-- A 16-bit word: I, PC, a stack entry, an instruction word (R23, R26, R28, R90). -/
abbrev Word := BitVec 16

/-- A 12-bit immediate address, the field NNN (30_encoding.md R92). -/
abbrev Addr12 := BitVec 12

/-- A 4-bit value: the field N, or a key of a key event (R32, R92). -/
abbrev Nibble := BitVec 4

/-- The number of a V register: any of the sixteen is legal wherever a register is named (R20, R95). -/
abbrev Reg := Fin 16

end Sys2Proof
end

