-- ==== Sys2Proof/Syntax.lean ====
section
/-! DEFINITION. The 34 instructions of base CHIP-8, one constructor for each row of the opcode map (30_encoding.md R99).
The constructors carry the names R97 and R99 give them, and their operands in the order of the instruction word. -/

namespace Sys2Proof

/-- An instruction with its operands (30_encoding.md R92, R93, R99). -/
inductive Instr where
  /-- 00E0, `CLS` (R210). -/
  | cls
  /-- 00EE, `RET` (R141). -/
  | ret
  /-- 1NNN, `JP nnn` (R142). -/
  | jp (nnn : Addr12)
  /-- 2NNN, `CALL nnn` (R143). -/
  | call (nnn : Addr12)
  /-- 3XNN, `SE Vx, nn` (R145). -/
  | seImm (x : Reg) (nn : Byte)
  /-- 4XNN, `SNE Vx, nn` (R146). -/
  | sneImm (x : Reg) (nn : Byte)
  /-- 5XY0, `SE Vx, Vy` (R147). -/
  | seReg (x y : Reg)
  /-- 6XNN, `LD Vx, nn` (R161). -/
  | ldImm (x : Reg) (nn : Byte)
  /-- 7XNN, `ADD Vx, nn` (R162). -/
  | addImm (x : Reg) (nn : Byte)
  /-- 8XY0, `LD Vx, Vy` (R163). -/
  | mov (x y : Reg)
  /-- 8XY1, `OR Vx, Vy` (R164). -/
  | or (x y : Reg)
  /-- 8XY2, `AND Vx, Vy` (R165). -/
  | and (x y : Reg)
  /-- 8XY3, `XOR Vx, Vy` (R166). -/
  | xor (x y : Reg)
  /-- 8XY4, `ADD Vx, Vy` (R167). -/
  | add (x y : Reg)
  /-- 8XY5, `SUB Vx, Vy` (R168). -/
  | sub (x y : Reg)
  /-- 8XY6, `SHR Vx, Vy` (R169). -/
  | shr (x y : Reg)
  /-- 8XY7, `SUBN Vx, Vy` (R170). -/
  | subn (x y : Reg)
  /-- 8XYE, `SHL Vx, Vy` (R171). -/
  | shl (x y : Reg)
  /-- 9XY0, `SNE Vx, Vy` (R148). -/
  | sneReg (x y : Reg)
  /-- ANNN, `LD I, nnn` (R191). -/
  | ldI (nnn : Addr12)
  /-- BNNN, `JP V0, nnn` (R149). -/
  | jpV0 (nnn : Addr12)
  /-- CXNN, `RND Vx, nn` (R172). -/
  | rnd (x : Reg) (nn : Byte)
  /-- DXYN, `DRW Vx, Vy, n` (R212). -/
  | drw (x y : Reg) (n : Nibble)
  /-- EX9E, `SKP Vx` (R231). -/
  | skp (x : Reg)
  /-- EXA1, `SKNP Vx` (R232). -/
  | sknp (x : Reg)
  /-- FX07, `LD Vx, DT` (R237). -/
  | ldXDt (x : Reg)
  /-- FX0A, `LD Vx, K` (R236). -/
  | ldXK (x : Reg)
  /-- FX15, `LD DT, Vx` (R238). -/
  | ldDtX (x : Reg)
  /-- FX18, `LD ST, Vx` (R239). -/
  | ldStX (x : Reg)
  /-- FX1E, `ADD I, Vx` (R192). -/
  | addIX (x : Reg)
  /-- FX29, `LD F, Vx` (R193). -/
  | ldFX (x : Reg)
  /-- FX33, `LD B, Vx` (R194). -/
  | ldBX (x : Reg)
  /-- FX55, `LD [I], Vx` (R195). -/
  | stRegs (x : Reg)
  /-- FX65, `LD Vx, [I]` (R196). -/
  | ldRegs (x : Reg)
  deriving DecidableEq, Repr

end Sys2Proof
end

