-- ==== Sys2Proof/Decode.lean ====
section
/-! DEFINITION. From instruction words to instructions (30_encoding.md R90-R103), and from instructions to words.
Decoding is total on every word and every sequence of bytes; a word of no row is rejected by the name of its family (R101).
The encoder is written from the opcode map of R99, not from the decoder. -/

namespace Sys2Proof

/-- Why a sequence of bytes is no instruction: the six unknown spaces of 30_encoding.md R101, or fewer than two bytes (R90). -/
inductive DecodeError where
  /-- A family-0 word other than 00E0 and 00EE, the 0NNN words among them (R102). -/
  | unknownFamily0
  /-- 5XYN with N != 0. -/
  | unknownFamily5
  /-- 8XYN with N in 8..D or F. -/
  | unknownFamily8
  /-- 9XYN with N != 0. -/
  | unknownFamily9
  /-- EXNN with NN neither 9E nor A1. -/
  | unknownFamilyE
  /-- FXNN with NN none of the nine sub-operations of the table. -/
  | unknownFamilyF
  /-- Fewer than the two bytes of an instruction. -/
  | truncated
  deriving DecidableEq, Repr

/-- What decoding answers: an instruction, or a rejection by name. -/
inductive Decoded where
  | instr (i : Instr)
  | rejected (why : DecodeError)
  deriving DecidableEq, Repr

/-- What decoding a sequence of bytes answers: an instruction and the bytes after it, or a rejection by name. -/
inductive DecodedBytes where
  | instr (i : Instr) (rest : List Byte)
  | rejected (why : DecodeError)
  deriving DecidableEq, Repr

/-! The fields of a word, by their positions (R91, R92). -/

/-- `c = op[15:12]`, the family. -/
def fieldC (op : Word) : Nibble := op.extractLsb' 12 4

/-- `op[11:8]` as bits. -/
def fieldXBits (op : Word) : Nibble := op.extractLsb' 8 4

/-- `op[7:4]` as bits. -/
def fieldYBits (op : Word) : Nibble := op.extractLsb' 4 4

/-- `X = op[11:8]`, a register number. -/
def fieldX (op : Word) : Reg := (fieldXBits op).toFin

/-- `Y = op[7:4]`, a register number. -/
def fieldY (op : Word) : Reg := (fieldYBits op).toFin

/-- `N = op[3:0]`. -/
def fieldN (op : Word) : Nibble := op.extractLsb' 0 4

/-- `NN = op[7:0]`. -/
def fieldNN (op : Word) : Byte := op.extractLsb' 0 8

/-- `NNN = op[11:0]`. -/
def fieldNNN (op : Word) : Addr12 := op.extractLsb' 0 12

/-- Family 0 matches only the two whole words 00E0 and 00EE (R96, R97). -/
def decodeFamily0 (op : Word) : Decoded :=
  if op = 0x00E0#16 then .instr .cls
  else if op = 0x00EE#16 then .instr .ret
  else .rejected .unknownFamily0

/-- Family 5 requires N = 0 (R96). -/
def decodeFamily5 (op : Word) : Decoded :=
  if fieldN op = 0#4 then .instr (.seReg (fieldX op) (fieldY op)) else .rejected .unknownFamily5

/-- Family 8 dispatches on N (R97). -/
def decodeFamily8 (op : Word) : Decoded :=
  match (fieldN op).toNat with
  | 0x0 => .instr (.mov (fieldX op) (fieldY op))
  | 0x1 => .instr (.or (fieldX op) (fieldY op))
  | 0x2 => .instr (.and (fieldX op) (fieldY op))
  | 0x3 => .instr (.xor (fieldX op) (fieldY op))
  | 0x4 => .instr (.add (fieldX op) (fieldY op))
  | 0x5 => .instr (.sub (fieldX op) (fieldY op))
  | 0x6 => .instr (.shr (fieldX op) (fieldY op))
  | 0x7 => .instr (.subn (fieldX op) (fieldY op))
  | 0xE => .instr (.shl (fieldX op) (fieldY op))
  | _ => .rejected .unknownFamily8

/-- Family 9 requires N = 0 (R96). -/
def decodeFamily9 (op : Word) : Decoded :=
  if fieldN op = 0#4 then .instr (.sneReg (fieldX op) (fieldY op)) else .rejected .unknownFamily9

/-- Family E dispatches on NN (R97). -/
def decodeFamilyE (op : Word) : Decoded :=
  if fieldNN op = 0x9E#8 then .instr (.skp (fieldX op))
  else if fieldNN op = 0xA1#8 then .instr (.sknp (fieldX op))
  else .rejected .unknownFamilyE

/-- Family F dispatches on NN (R97). -/
def decodeFamilyF (op : Word) : Decoded :=
  if fieldNN op = 0x07#8 then .instr (.ldXDt (fieldX op))
  else if fieldNN op = 0x0A#8 then .instr (.ldXK (fieldX op))
  else if fieldNN op = 0x15#8 then .instr (.ldDtX (fieldX op))
  else if fieldNN op = 0x18#8 then .instr (.ldStX (fieldX op))
  else if fieldNN op = 0x1E#8 then .instr (.addIX (fieldX op))
  else if fieldNN op = 0x29#8 then .instr (.ldFX (fieldX op))
  else if fieldNN op = 0x33#8 then .instr (.ldBX (fieldX op))
  else if fieldNN op = 0x55#8 then .instr (.stRegs (fieldX op))
  else if fieldNN op = 0x65#8 then .instr (.ldRegs (fieldX op))
  else .rejected .unknownFamilyF

/-- The decode function of R97, total on every 16-bit word. -/
def decode (op : Word) : Decoded :=
  match (fieldC op).toNat with
  | 0x0 => decodeFamily0 op
  | 0x1 => .instr (.jp (fieldNNN op))
  | 0x2 => .instr (.call (fieldNNN op))
  | 0x3 => .instr (.seImm (fieldX op) (fieldNN op))
  | 0x4 => .instr (.sneImm (fieldX op) (fieldNN op))
  | 0x5 => decodeFamily5 op
  | 0x6 => .instr (.ldImm (fieldX op) (fieldNN op))
  | 0x7 => .instr (.addImm (fieldX op) (fieldNN op))
  | 0x8 => decodeFamily8 op
  | 0x9 => decodeFamily9 op
  | 0xA => .instr (.ldI (fieldNNN op))
  | 0xB => .instr (.jpV0 (fieldNNN op))
  | 0xC => .instr (.rnd (fieldX op) (fieldNN op))
  | 0xD => .instr (.drw (fieldX op) (fieldY op) (fieldN op))
  | 0xE => decodeFamilyE op
  | _ => decodeFamilyF op

/-- Two bytes as the word they store: the byte at the lower address is the high byte (20_memory.md R65). -/
def wordOfBytes (high low : Byte) : Word := high ++ low

/-- The byte of a word at the lower address. -/
def highByte (op : Word) : Byte := op.extractLsb' 8 8

/-- The byte of a word at the higher address. -/
def lowByte (op : Word) : Byte := op.extractLsb' 0 8

/-- Decoding a sequence of bytes: the first two make the word, and every instruction is two bytes long (R90, R98). -/
def decodeBytes : List Byte → DecodedBytes
  | high :: low :: rest =>
    match decode (wordOfBytes high low) with
    | .instr i => .instr i rest
    | .rejected why => .rejected why
  | _ => .rejected .truncated

/-- The instruction word a table word `w` of `nbits` bits stands for, the bits above `nbits` being 0. -/
def tableWord (nbits w : Nat) : Word := BitVec.ofNat 16 (w % 2 ^ nbits)

/-- The decoder's reading of a word numbered as spec/opcode_table.json numbers it, laid out as memory stores it. -/
def decodeTableWord (nbits w : Nat) : Option Instr :=
  match decodeBytes [highByte (tableWord nbits w), lowByte (tableWord nbits w)] with
  | .instr i _ => some i
  | .rejected _ => none

/-! The encoder, from the match and mask columns of R99. -/

/-- A register number as the four bits of its field. -/
def regBits (x : Reg) : Nibble := BitVec.ofFin x

/-- Format A: a family nibble and an address (R93). -/
def encodeA (c : Nibble) (nnn : Addr12) : Word := c ++ nnn

/-- Format XNN: a family nibble, a register and a byte; format X has a fixed byte there (R93). -/
def encodeXNN (c : Nibble) (x : Reg) (nn : Byte) : Word := c ++ regBits x ++ nn

/-- Format XYN: a family nibble, two registers and a nibble; format XY has a fixed nibble there (R93). -/
def encodeXYN (c : Nibble) (x y : Reg) (n : Nibble) : Word := c ++ regBits x ++ regBits y ++ n

/-- The word of an instruction (R99). -/
def encode : Instr → Word
  | .cls => 0x00E0#16
  | .ret => 0x00EE#16
  | .jp nnn => encodeA 0x1 nnn
  | .call nnn => encodeA 0x2 nnn
  | .seImm x nn => encodeXNN 0x3 x nn
  | .sneImm x nn => encodeXNN 0x4 x nn
  | .seReg x y => encodeXYN 0x5 x y 0x0
  | .ldImm x nn => encodeXNN 0x6 x nn
  | .addImm x nn => encodeXNN 0x7 x nn
  | .mov x y => encodeXYN 0x8 x y 0x0
  | .or x y => encodeXYN 0x8 x y 0x1
  | .and x y => encodeXYN 0x8 x y 0x2
  | .xor x y => encodeXYN 0x8 x y 0x3
  | .add x y => encodeXYN 0x8 x y 0x4
  | .sub x y => encodeXYN 0x8 x y 0x5
  | .shr x y => encodeXYN 0x8 x y 0x6
  | .subn x y => encodeXYN 0x8 x y 0x7
  | .shl x y => encodeXYN 0x8 x y 0xE
  | .sneReg x y => encodeXYN 0x9 x y 0x0
  | .ldI nnn => encodeA 0xA nnn
  | .jpV0 nnn => encodeA 0xB nnn
  | .rnd x nn => encodeXNN 0xC x nn
  | .drw x y n => encodeXYN 0xD x y n
  | .skp x => encodeXNN 0xE x 0x9E
  | .sknp x => encodeXNN 0xE x 0xA1
  | .ldXDt x => encodeXNN 0xF x 0x07
  | .ldXK x => encodeXNN 0xF x 0x0A
  | .ldDtX x => encodeXNN 0xF x 0x15
  | .ldStX x => encodeXNN 0xF x 0x18
  | .addIX x => encodeXNN 0xF x 0x1E
  | .ldFX x => encodeXNN 0xF x 0x29
  | .ldBX x => encodeXNN 0xF x 0x33
  | .stRegs x => encodeXNN 0xF x 0x55
  | .ldRegs x => encodeXNN 0xF x 0x65

/-! The opcode map as the list of rows it is (R99). -/

/-- The match and mask columns of a row of R99. -/
structure OpcodeRow where
  fixedBits : Word
  mask : Word
  deriving DecidableEq, Repr

/-- "A word `op` selects a row when `op & mask == match`" (R99). -/
def OpcodeRow.selectedBy (row : OpcodeRow) (op : Word) : Bool := (op &&& row.mask) == row.fixedBits

/-- Rows 1 to 19 of R99. -/
def opcodeRowsLow : List OpcodeRow :=
  [⟨0x00E0, 0xFFFF⟩, ⟨0x00EE, 0xFFFF⟩, ⟨0x1000, 0xF000⟩, ⟨0x2000, 0xF000⟩, ⟨0x3000, 0xF000⟩, ⟨0x4000, 0xF000⟩,
   ⟨0x5000, 0xF00F⟩, ⟨0x6000, 0xF000⟩, ⟨0x7000, 0xF000⟩, ⟨0x8000, 0xF00F⟩, ⟨0x8001, 0xF00F⟩, ⟨0x8002, 0xF00F⟩,
   ⟨0x8003, 0xF00F⟩, ⟨0x8004, 0xF00F⟩, ⟨0x8005, 0xF00F⟩, ⟨0x8006, 0xF00F⟩, ⟨0x8007, 0xF00F⟩, ⟨0x800E, 0xF00F⟩,
   ⟨0x9000, 0xF00F⟩]

/-- Rows 20 to 34 of R99. -/
def opcodeRowsHigh : List OpcodeRow :=
  [⟨0xA000, 0xF000⟩, ⟨0xB000, 0xF000⟩, ⟨0xC000, 0xF000⟩, ⟨0xD000, 0xF000⟩, ⟨0xE09E, 0xF0FF⟩, ⟨0xE0A1, 0xF0FF⟩,
   ⟨0xF007, 0xF0FF⟩, ⟨0xF00A, 0xF0FF⟩, ⟨0xF015, 0xF0FF⟩, ⟨0xF018, 0xF0FF⟩, ⟨0xF01E, 0xF0FF⟩, ⟨0xF029, 0xF0FF⟩,
   ⟨0xF033, 0xF0FF⟩, ⟨0xF055, 0xF0FF⟩, ⟨0xF065, 0xF0FF⟩]

/-- The complete opcode map of R99, in its order. -/
def opcodeMap : List OpcodeRow := opcodeRowsLow ++ opcodeRowsHigh

/-- The place of an instruction's row in R99, counted from 0 (the table counts from 1). -/
def Instr.rowNumber : Instr → Nat
  | .cls => 0 | .ret => 1 | .jp _ => 2 | .call _ => 3 | .seImm _ _ => 4 | .sneImm _ _ => 5 | .seReg _ _ => 6
  | .ldImm _ _ => 7 | .addImm _ _ => 8 | .mov _ _ => 9 | .or _ _ => 10 | .and _ _ => 11 | .xor _ _ => 12
  | .add _ _ => 13 | .sub _ _ => 14 | .shr _ _ => 15 | .subn _ _ => 16 | .shl _ _ => 17 | .sneReg _ _ => 18
  | .ldI _ => 19 | .jpV0 _ => 20 | .rnd _ _ => 21 | .drw _ _ _ => 22 | .skp _ => 23 | .sknp _ => 24
  | .ldXDt _ => 25 | .ldXK _ => 26 | .ldDtX _ => 27 | .ldStX _ => 28 | .addIX _ => 29 | .ldFX _ => 30
  | .ldBX _ => 31 | .stRegs _ => 32 | .ldRegs _ => 33

end Sys2Proof
end

