-- ==== Sys2Proof/Config.lean ====
section
/-! DEFINITION. What is fixed for the machine, and its one free value (00_scope.md R10, R11).
The two parameters a test could show wrong, `Config.stackDepth` and `Config.font`, stand in Machine/Params.lean. -/

namespace Sys2Proof.Config

/-- The draw of CXNN, a FREE VALUE: the draw number `n` of the run is some byte, and nothing constrains it
(40_cycle.md R130, 42_alu.md R172, D16; log 1). -/
opaque rnd : Nat → Byte

/-- `MEM_SIZE` (R10): the number of bytes of the one address space (20_memory.md R60). -/
def memSize : Nat := 4096

/-- `FONT_BASE` (R10): where the 80 font bytes stand (20_memory.md R61). -/
def fontBase : Nat := 0x050

/-- The number of font bytes: 16 glyphs of 5 bytes (R10, 70_reset_and_hazards.md R293). -/
def fontSize : Nat := 80

/-- `PROG_BASE` (R10): where Load copies the image, and the reset value of PC. -/
def progBase : Nat := 0x200

/-- `MAX_IMAGE` (R10): the longest image Load accepts (70_reset_and_hazards.md R291). -/
def maxImage : Nat := 3584

end Sys2Proof.Config
end

