-- ==== Sys2Proof/Machine/Params.lean ====
section
/-! DEFINITION. The two parameters of the machine that the spec takes from outside its source (00_scope.md R10, R11). -/

namespace Sys2Proof.Config

/-- `STACK_DEPTH`, the entries of the call stack: 16 for this hardware (R10, R11, D2; log 2). -/
def stackDepth : Nat := 16

/-- Glyphs 0 to 3 of R293. -/
def fontGlyphs0to3 : List Byte :=
  [0xF0, 0x90, 0x90, 0x90, 0xF0,  0x20, 0x60, 0x20, 0x20, 0x70,  0xF0, 0x10, 0xF0, 0x80, 0xF0,  0xF0, 0x10, 0xF0, 0x10, 0xF0]

/-- Glyphs 4 to 7 of R293. -/
def fontGlyphs4to7 : List Byte :=
  [0x90, 0x90, 0xF0, 0x10, 0x10,  0xF0, 0x80, 0xF0, 0x10, 0xF0,  0xF0, 0x80, 0xF0, 0x90, 0xF0,  0xF0, 0x10, 0x20, 0x40, 0x40]

/-- Glyphs 8 to B of R293. -/
def fontGlyphs8toB : List Byte :=
  [0xF0, 0x90, 0xF0, 0x90, 0xF0,  0xF0, 0x90, 0xF0, 0x10, 0xF0,  0xF0, 0x90, 0xF0, 0x90, 0x90,  0xE0, 0x90, 0xE0, 0x90, 0xE0]

/-- Glyphs C to F of R293. -/
def fontGlyphsCtoF : List Byte :=
  [0xF0, 0x80, 0x80, 0x80, 0xF0,  0xE0, 0x90, 0x90, 0x90, 0xE0,  0xF0, 0x80, 0xF0, 0x80, 0xF0,  0xF0, 0x80, 0xF0, 0x80, 0x80]

/-- `FONT`, the 80 glyph bytes, glyph k at offset 5k: the default table of R293 (D20; log 3). -/
def font : List Byte := fontGlyphs0to3 ++ fontGlyphs4to7 ++ fontGlyphs8toB ++ fontGlyphsCtoF

end Sys2Proof.Config
end

