-- ==== Sys2Proof/Machine/State.lean ====
section
/-! DEFINITION. The state of the core, the whole record of 10_state.md R43, as plain data; why a step can stop; reset. -/

namespace Sys2Proof.Machine

/-- The state register STATE (10_state.md R36). Its value 3 is never reached and has no name (log 6). -/
inductive Mode where
  | run
  | waitKey
  | halted
  deriving DecidableEq, Repr

/-- FAULT_CODE (10_state.md R38). Its value 3 is never written and has no name (log 6). -/
inductive FaultCode where
  | none
  | stackUnderflow
  | stackOverflow
  deriving DecidableEq, Repr

/-- MEM as a list of (address, byte) pairs in the canonical form of `Memory.wf` (20_memory.md R60; log 5). -/
abbrev Memory := List Host.Cell

/-- The display buffer: `fb[x][y]` is the pixel in column x and row y, true = on (10_state.md R33). -/
abbrev Display := Vector (Vector Bool 32) 64

/-- The state of the core (10_state.md R43), and the model's own count of draws. -/
structure State where
  /-- V[0..15] (R20). -/
  v : Vector Byte 16
  /-- I (R26). -/
  i : Word
  /-- PC (R23). -/
  pc : Word
  /-- SP, the number of valid stack entries (R28). -/
  sp : Fin 17
  /-- STACK[0..15] (R28). -/
  stack : Vector Word 16
  /-- DT (R30). -/
  dt : Byte
  /-- ST (R30). -/
  st : Byte
  /-- KEYS, bit k = key k is pressed (R31). -/
  keys : Word
  /-- KEV_VALID (R32). -/
  kevValid : Bool
  /-- KEV_KEY (R32). -/
  kevKey : Nibble
  /-- FB (R33). -/
  fb : Display
  /-- DIRTY (R34). -/
  dirty : Bool
  /-- MEM (R35). -/
  mem : Memory
  /-- STATE (R36). -/
  mode : Mode
  /-- WAIT_X (R37). -/
  waitX : Reg
  /-- FAULT_CODE (R38). -/
  faultCode : FaultCode
  /-- FAULT_PC (R39). -/
  faultPc : Word
  /-- UNK_VALID (R40). -/
  unkValid : Bool
  /-- UNK_OP (R40). -/
  unkOp : Word
  /-- UNK_PC (R40). -/
  unkPc : Word
  /-- The model's own field, no register of the spec: the number of draws CXNN has consumed (R130; log 1). -/
  draws : Nat
  deriving DecidableEq, Repr

/-- Why the machine stops with a fault: never. The spec's two stack faults are NEXT states with STATE = HALTED
(60_exceptions.md R252), in which a Step does nothing (40_cycle.md R126), and "Step always completes and returns to the
host" (R127), so no constructor exists and nothing raises one. Safe: no run is cut short (log 9). -/
inductive Fault
  deriving DecidableEq, Repr

/-- Why a step is refused. -/
inductive Refusal where
  /-- Raised by an arm of `exec` whose instruction has no meaning yet, with the table's mnemonic; safe. No arm raises it:
  all 34 instructions have their meaning. -/
  | notModelled (mnemonic : String)
  deriving DecidableEq, Repr

/-- What a step or a meaning answers. -/
abbrev Result := Host.Outcome State Fault Refusal

/-- The machine after power-on: 10_state.md R47 with KEYS = 0 (70_reset_and_hazards.md R296). Memory lists nothing, so it
reads as the reset contents everywhere: the font at 0x050..0x09F and 0 elsewhere (log 5). `draws` is the model's (log 1). -/
def State.reset : State where
  v := Vector.replicate 16 0
  i := 0
  pc := 0x200
  sp := 0
  stack := Vector.replicate 16 0
  dt := 0
  st := 0
  keys := 0
  kevValid := false
  kevKey := 0
  fb := Vector.replicate 64 (Vector.replicate 32 false)
  dirty := false
  mem := []
  mode := .run
  waitX := 0
  faultCode := .none
  faultPc := 0
  unkValid := false
  unkOp := 0
  unkPc := 0
  draws := 0

end Sys2Proof.Machine
end

