-- ==== Sys2Proof/Machine/Ops.lean ====
section
/-! DEFINITION. The named operations over memory, registers, the program counter and the call stack, and the entry into a
stack fault. No return from a fault exists: Load is the only way out of HALTED (60_exceptions.md R253). -/

namespace Sys2Proof.Machine

/-! ## Memory (20_memory.md) -/

/-- The address decoder: every byte address is reduced modulo 4096 (R62, D5; log 13). -/
def decodeAddress (a : Nat) : Nat := a % Config.memSize

/-- What an unlisted address reads as: its reset contents, a font byte in 0x050..0x09F and 0 elsewhere
(10_state.md R47, 70_reset_and_hazards.md R290; log 5). -/
def Memory.background (a : Nat) : Byte :=
  if Config.fontBase ≤ a ∧ a < Config.fontBase + Config.fontSize then Config.font.getD (a - Config.fontBase) 0 else 0

/-- The byte at a decoded address. -/
def Memory.readCell : Memory → Nat → Byte
  | [], a => Memory.background a
  | (b, w) :: m, a => if b = a then w else Memory.readCell m a

/-- `MemRead(a, 1)` (00_scope.md R15): the byte at `a mod 4096`, for any address `a`. -/
def Memory.read (m : Memory) (a : Nat) : Byte := Memory.readCell m (decodeAddress a)

/-- Lists a byte at a decoded address, keeping the list sorted and free of entries that equal the reset contents. -/
def Memory.writeCell : Memory → Nat → Byte → Memory
  | [], a, v => if v = Memory.background a then [] else [(a, v)]
  | (b, w) :: m, a, v =>
    if b < a then (b, w) :: Memory.writeCell m a v
    else if b = a then (if v = Memory.background a then m else (a, v) :: m)
    else if v = Memory.background a then (b, w) :: m
    else (a, v) :: (b, w) :: m

/-- `MemWrite(a, 1, v)` (00_scope.md R15): sets the byte at `a mod 4096`. -/
def Memory.write (m : Memory) (a : Nat) (v : Byte) : Memory := Memory.writeCell m (decodeAddress a) v

/-- Writes bytes at ascending addresses from `a`, each address decoded on its own (R62, R66). -/
def Memory.writeBytes : Memory → Nat → List Byte → Memory
  | m, _, [] => m
  | m, a, v :: vs => Memory.writeBytes (Memory.write m a v) (a + 1) vs

/-- Reads `n` bytes at ascending addresses from `a`, each address decoded on its own (R62, R66). -/
def Memory.readBytes (m : Memory) : Nat → Nat → List Byte
  | _, 0 => []
  | a, n + 1 => Memory.read m a :: Memory.readBytes m (a + 1) n

/-- The entries from address `lo` on rise strictly, lie in the address space, and differ from the reset contents. -/
def Memory.wfFrom : Nat → Memory → Bool
  | _, [] => true
  | lo, (a, v) :: m => decide (lo ≤ a) && decide (a < Config.memSize) && (v != Memory.background a) && Memory.wfFrom (a + 1) m

/-- The canonical form: equal memories are equal lists (log 5). -/
def Memory.wf (m : Memory) : Bool := Memory.wfFrom 0 m

/-! ## Registers (10_state.md R14, R20) -/

/-- `V[r]`. -/
def State.readV (s : State) (r : Reg) : Byte := s.v[r]

/-- `V[r] <- b`. No register is hardwired (R20). -/
def State.writeV (s : State) (r : Reg) (b : Byte) : State := { s with v := s.v.set r.val b r.isLt }

/-- VF, the register that serves as the flag (R21). -/
def vf : Reg := 15

/-- `PC <- target`; no target has an alignment requirement (41_flow.md R140). -/
def State.setPc (s : State) (target : Word) : State := { s with pc := target }

/-- `I <- w` (R26). -/
def State.setI (s : State) (w : Word) : State := { s with i := w }

/-- Stores bytes at ascending addresses from `a`. -/
def State.storeBytes (s : State) (a : Nat) (bytes : List Byte) : State := { s with mem := Memory.writeBytes s.mem a bytes }

/-! ## The program counter and the fetch (40_cycle.md R121, R122) -/

/-- The instruction word at address `a`, big-endian, each byte's address decoded on its own (20_memory.md R62, R65). -/
def Memory.wordAt (m : Memory) (a : Word) : Word :=
  wordOfBytes (Memory.read m a.toNat) (Memory.read m (a.toNat + 1))

/-- The word a Step in RUN fetches: the word at PC (R121). -/
def State.fetchWord (s : State) : Word := Memory.wordAt s.mem s.pc

/-- `PC <- (PC + 2) mod 2^16`: the fetch advance of R121, and the Skip of 41_flow.md R144. -/
def State.advancePc (s : State) : State := s.setPc (s.pc + 2)

/-- `if c: Skip()` (41_flow.md R144). -/
def State.skipIf (s : State) (c : Bool) : State := if c then s.advancePc else s

/-- `ipc`, the address of the executing instruction: PC holds `ipc + 2` throughout execution (R122; log 7). -/
def State.ipc (s : State) : Word := s.pc - 2

/-! ## Stack faults (60_exceptions.md R252) -/

/-- Fault entry: FAULT_CODE and FAULT_PC are recorded, STATE becomes HALTED, and nothing else is written (R252; log 17). -/
def State.raiseFault (s : State) (code : FaultCode) : State :=
  { s with faultCode := code, faultPc := s.ipc, mode := .halted }

/-! ## The call stack (41_flow.md R141, R143) -/

/-- 2NNN over a stack of `depth` entries: pushes PC and jumps, or raises StackOverflow when SP has reached `depth` (R143).
`depth` is at most 16 (00_scope.md R11), so the second conjunct follows from the first. -/
def State.callWith (depth : Nat) (target : Word) (s : State) : State :=
  if h : s.sp.val < depth ∧ s.sp.val < 16 then
    { s with stack := s.stack.set s.sp.val s.pc h.2, sp := ⟨s.sp.val + 1, by omega⟩, pc := target }
  else s.raiseFault .stackOverflow

/-- 00EE: pops PC, or raises StackUnderflow when the stack is empty; the popped entry keeps its value (R141, R29). -/
def State.popPc (s : State) : State :=
  if h : s.sp.val = 0 then s.raiseFault .stackUnderflow
  else { s with sp := ⟨s.sp.val - 1, by omega⟩, pc := s.stack[s.sp.val - 1]'(by omega) }

/-! ## Unknown opcodes and the end of a key wait -/

/-- An unknown opcode: a no-op that records its word and its address (30_encoding.md R100; log 16). PC is already `ipc + 2`. -/
def State.recordUnknown (s : State) (op : Word) : State :=
  { s with unkValid := true, unkOp := op, unkPc := s.ipc }

/-- FX0A: undoes the fetch advance and enters WAIT_KEY with an empty latch (45_keypad_timer.md R236; log 18). -/
def State.enterWait (s : State) (x : Reg) : State :=
  { s with waitX := x, kevValid := false, pc := s.ipc, mode := .waitKey }

/-- A Step in WAIT_KEY: completes FX0A if a key event is latched, else changes nothing (40_cycle.md R125; log 18). -/
def State.resumeWait (s : State) : State :=
  if s.kevValid then
    { s.writeV s.waitX (s.kevKey.setWidth 8) with kevValid := false, pc := s.pc + 2, mode := .run }
  else s

end Sys2Proof.Machine
end

