-- ==== Sys2Proof/Machine/Flags.lean ====
section
/-! DEFINITION. The flag computations, all into VF (42_alu.md R173, R174), and the order of the two writes (R160). -/

namespace Sys2Proof.Machine

/-- A flag as the byte VF takes: 1 or 0 (42_alu.md R174). -/
def flagByte (f : Bool) : Byte := if f then 1 else 0

/-- The carry of 8XY4: the 9-bit sum exceeds 255 (42_alu.md R167). -/
def carry (a b : Byte) : Bool := decide (255 < a.toNat + b.toNat)

/-- The not-borrow of a subtraction: the minuend is at least the subtrahend (42_alu.md R168, R170). -/
def notBorrow (minuend subtrahend : Byte) : Bool := decide (subtrahend.toNat ≤ minuend.toNat)

/-- The bit a right shift by one shifts out (42_alu.md R169). -/
def shiftedOutRight (b : Byte) : Bool := b.getLsbD 0

/-- The bit a left shift by one shifts out (42_alu.md R171). -/
def shiftedOutLeft (b : Byte) : Bool := b.getLsbD 7

/-- Writes VX and then VF, so that VF holds the flag when X = 15 (42_alu.md R160, D4; log 15). -/
def State.writeResultAndFlag (s : State) (x : Reg) (result : Byte) (flag : Bool) : State :=
  (s.writeV x result).writeV vf (flagByte flag)

end Sys2Proof.Machine
end

