-- ==== Sys2Proof/Machine/Alu.lean ====
section
/-! DEFINITION. ALU instructions and register moves (42_alu.md). Operands are read before anything is written (R160). -/

namespace Sys2Proof.Machine

/-- 6XNN (R161). -/
def execLdImm (x : Reg) (nn : Byte) (s : State) : Result := .next (s.writeV x nn)

/-- 7XNN, without a flag (R162). -/
def execAddImm (x : Reg) (nn : Byte) (s : State) : Result := .next (s.writeV x (s.readV x + nn))

/-- 8XY0 (R163). -/
def execMov (x y : Reg) (s : State) : Result := .next (s.writeV x (s.readV y))

/-- 8XY1; VF unchanged unless X = 15 (R164). -/
def execOr (x y : Reg) (s : State) : Result := .next (s.writeV x (s.readV x ||| s.readV y))

/-- 8XY2; VF unchanged unless X = 15 (R165). -/
def execAnd (x y : Reg) (s : State) : Result := .next (s.writeV x (s.readV x &&& s.readV y))

/-- 8XY3; VF unchanged unless X = 15 (R166). -/
def execXor (x y : Reg) (s : State) : Result := .next (s.writeV x (s.readV x ^^^ s.readV y))

/-- 8XY4, add with carry into VF (R167). -/
def execAdd (x y : Reg) (s : State) : Result :=
  .next (s.writeResultAndFlag x (s.readV x + s.readV y) (carry (s.readV x) (s.readV y)))

/-- 8XY5, VX minus VY with not-borrow into VF (R168). -/
def execSub (x y : Reg) (s : State) : Result :=
  .next (s.writeResultAndFlag x (s.readV x - s.readV y) (notBorrow (s.readV x) (s.readV y)))

/-- 8XY6, shift VY right by one into VX (R169; log 15). -/
def execShr (x y : Reg) (s : State) : Result :=
  .next (s.writeResultAndFlag x (s.readV y >>> 1) (shiftedOutRight (s.readV y)))

/-- 8XY7, VY minus VX with not-borrow into VF (R170). -/
def execSubn (x y : Reg) (s : State) : Result :=
  .next (s.writeResultAndFlag x (s.readV y - s.readV x) (notBorrow (s.readV y) (s.readV x)))

/-- 8XYE, shift VY left by one into VX (R171; log 15). -/
def execShl (x y : Reg) (s : State) : Result :=
  .next (s.writeResultAndFlag x (s.readV y <<< 1) (shiftedOutLeft (s.readV y)))

/-- CXNN for a given draw: VX <- draw & NN; the draw is consumed (R172). -/
def State.writeDraw (s : State) (draw : Byte) (x : Reg) (nn : Byte) : State :=
  { s.writeV x (draw &&& nn) with draws := s.draws + 1 }

/-- CXNN: takes one fresh draw, a free byte (R130, R172; log 1). -/
def execRnd (x : Reg) (nn : Byte) (s : State) : Result := .next (s.writeDraw (Config.rnd s.draws) x nn)

end Sys2Proof.Machine
end

