-- ==== Sys2Proof/Machine/Operands.lean ====
section
/-! DEFINITION. The operand forms: immediates, key numbers, glyph addresses, decimal digits, and the bytes an instruction
reaches indirectly through I (30_encoding.md R94, 43_index_memory.md R190). -/

namespace Sys2Proof.Machine

/-- NNN, zero-extended to the 16 bits of PC and I (30_encoding.md R94). -/
def addressOperand (nnn : Addr12) : Word := nnn.setWidth 16

/-- A register's byte, zero-extended for PC and I arithmetic (41_flow.md R149, 43_index_memory.md R192). -/
def byteAsWord (b : Byte) : Word := b.setWidth 16

/-- The low nibble of a register's byte, as a number (43_index_memory.md R193, 45_keypad_timer.md R233; log 18). -/
def lowNibble (b : Byte) : Nat := b.toNat % 16

/-- Whether the key numbered by a register's low nibble is pressed: `KEYS[b & 0xF] == 1` (45_keypad_timer.md R231, R233). -/
def State.keyPressed (s : State) (b : Byte) : Bool := s.keys.getLsbD (lowNibble b)

/-- The address of the glyph of a hex digit: `0x050 + 5 * (b & 0xF)` (43_index_memory.md R193). -/
def glyphAddress (b : Byte) : Word := BitVec.ofNat 16 (Config.fontBase + 5 * lowNibble b)

/-- The decimal digits of a byte, hundreds first (43_index_memory.md R194). -/
def decimalDigits (b : Byte) : List Byte :=
  [BitVec.ofNat 8 (b.toNat / 100), BitVec.ofNat 8 (b.toNat / 10 % 10), BitVec.ofNat 8 (b.toNat % 10)]

/-- The address of byte `k` of an access through I, before the address decoder: `I + k` (43_index_memory.md R190). -/
def State.indirect (s : State) (k : Nat) : Nat := s.i.toNat + k

/-- V0..VX, the registers FX55 stores (43_index_memory.md R195). -/
def State.firstRegs (s : State) (x : Reg) : List Byte := s.v.toList.take (x.val + 1)

/-- FX65's registers: V[k] is the byte at I + k for k up to X, and the registers above X keep their values
(43_index_memory.md R196). The reads change nothing, so the order of the loop cannot be seen (20_memory.md R70). -/
def State.loadRegs (s : State) (x : Reg) : State :=
  { s with v := Vector.ofFn fun k : Fin 16 => if k.val ≤ x.val then Memory.read s.mem (s.indirect k.val) else s.readV k }

end Sys2Proof.Machine
end

