-- ==== Sys2Proof/Machine/Display.lean ====
section
/-! DEFINITION. The display buffer and its two instructions (44_display.md). -/

namespace Sys2Proof.Machine

/-- `FB[x][y]` (10_state.md R33). -/
def Display.pixel (fb : Display) (x : Fin 64) (y : Fin 32) : Bool := fb[x][y]

/-- `FB[x][y] <- FB[x][y] ^ 1`. -/
def Display.invert (fb : Display) (x : Fin 64) (y : Fin 32) : Display :=
  fb.set x.val (fb[x].set y.val (!Display.pixel fb x y) y.isLt) x.isLt

/-- Every pixel off. -/
def Display.blank : Display := Vector.replicate 64 (Vector.replicate 32 false)

/-- The buffer while a sprite is drawn, and whether a pixel that was on has been turned off. -/
structure Drawing where
  fb : Display
  collide : Bool
  deriving DecidableEq, Repr

/-- One set bit of a sprite: records a collision if the pixel is on, then inverts it (R212). -/
def Drawing.plot (d : Drawing) (x : Fin 64) (y : Fin 32) : Drawing :=
  { fb := Display.invert d.fb x y, collide := d.collide || Display.pixel d.fb x y }

/-- The bit of a row byte for column offset `c`: bit 7 is the leftmost pixel (R211, D18; log 19). -/
def spriteBit (row : Byte) (c : Nat) : Bool := row.getLsbD (7 - c)

/-- One row of a sprite, columns 0 to 7, each wrapping modulo 64 and the row modulo 32 (R212). -/
def Drawing.row (d : Drawing) (x0 y : Nat) (row : Byte) : Drawing :=
  (List.range 8).foldl
    (fun d c => if spriteBit row c then Drawing.plot d (Fin.ofNat 64 (x0 + c)) (Fin.ofNat 32 y) else d) d

/-- The rows of a sprite, top first (R212). -/
def Drawing.rows (d : Drawing) (x0 y : Nat) : List Byte → Drawing
  | [] => d
  | row :: rest => Drawing.rows (Drawing.row d x0 y row) x0 (y + 1) rest

/-- DXYN: reads the rows, draws them, sets DIRTY, and writes the collision to VF last (R212; log 19). -/
def State.drawSprite (s : State) (x y : Reg) (n : Nat) : State :=
  let d := Drawing.rows ⟨s.fb, false⟩ (s.readV x).toNat (s.readV y).toNat (Memory.readBytes s.mem (s.indirect 0) n)
  { s with fb := d.fb, dirty := true }.writeV vf (flagByte d.collide)

/-- 00E0: clears the buffer and sets DIRTY (R210). -/
def execCls (s : State) : Result := .next { s with fb := Display.blank, dirty := true }

/-- DXYN (R212). -/
def execDrw (x y : Reg) (n : Nibble) (s : State) : Result := .next (s.drawSprite x y n.toNat)

end Sys2Proof.Machine
end

