-- ==== Sys2Proof/Machine/Flow.lean ====
section
/-! DEFINITION. Control transfer, calls and skips (41_flow.md). PC is `ipc + 2` when a meaning starts (40_cycle.md R122). -/

namespace Sys2Proof.Machine

/-- 00EE, return from subroutine (R141). -/
def execRet (s : State) : Result := .next s.popPc

/-- 1NNN, jump (R142). -/
def execJp (nnn : Addr12) (s : State) : Result := .next (s.setPc (addressOperand nnn))

/-- 2NNN, call subroutine, on the hardware's STACK_DEPTH (R143). -/
def execCall (nnn : Addr12) (s : State) : Result := .next (s.callWith Config.stackDepth (addressOperand nnn))

/-- 3XNN, skip if VX equals NN (R145). -/
def execSeImm (x : Reg) (nn : Byte) (s : State) : Result := .next (s.skipIf (s.readV x == nn))

/-- 4XNN, skip if VX differs from NN (R146). -/
def execSneImm (x : Reg) (nn : Byte) (s : State) : Result := .next (s.skipIf (s.readV x != nn))

/-- 5XY0, skip if VX equals VY (R147). -/
def execSeReg (x y : Reg) (s : State) : Result := .next (s.skipIf (s.readV x == s.readV y))

/-- 9XY0, skip if VX differs from VY (R148). -/
def execSneReg (x y : Reg) (s : State) : Result := .next (s.skipIf (s.readV x != s.readV y))

/-- BNNN, jump to NNN + V0; the sum is not reduced to 12 bits (R149). -/
def execJpV0 (nnn : Addr12) (s : State) : Result := .next (s.setPc (addressOperand nnn + byteAsWord (s.readV 0)))

end Sys2Proof.Machine
end

