-- ==== Sys2Proof/Machine/IndexMemory.lean ====
section
/-! DEFINITION. The index register and transfers between registers and memory (43_index_memory.md). None changes VF as a
flag, and FX33, FX55, FX65 leave I unchanged (R190; log 21). -/

namespace Sys2Proof.Machine

/-- ANNN (R191). -/
def execLdI (nnn : Addr12) (s : State) : Result := .next (s.setI (addressOperand nnn))

/-- FX1E, modulo 2^16 (R192). -/
def execAddIX (x : Reg) (s : State) : Result := .next (s.setI (s.i + byteAsWord (s.readV x)))

/-- FX29 (R193). -/
def execLdFX (x : Reg) (s : State) : Result := .next (s.setI (glyphAddress (s.readV x)))

/-- FX33, the three decimal digits of VX at I (R194). -/
def execLdBX (x : Reg) (s : State) : Result := .next (s.storeBytes (s.indirect 0) (decimalDigits (s.readV x)))

/-- FX55, V0..VX to memory at I (R195). -/
def execStRegs (x : Reg) (s : State) : Result := .next (s.storeBytes (s.indirect 0) (s.firstRegs x))

/-- FX65, V0..VX from memory at I (R196). -/
def execLdRegs (x : Reg) (s : State) : Result := .next (s.loadRegs x)

end Sys2Proof.Machine
end

