-- ==== Sys2Proof/Machine/KeypadTimer.lean ====
section
/-! DEFINITION. Keypad and timer instructions (45_keypad_timer.md). -/

namespace Sys2Proof.Machine

/-- EX9E, skip if the key numbered by VX is pressed (R231, R233). -/
def execSkp (x : Reg) (s : State) : Result := .next (s.skipIf (s.keyPressed (s.readV x)))

/-- EXA1, skip if the key numbered by VX is not pressed (R232, R233). -/
def execSknp (x : Reg) (s : State) : Result := .next (s.skipIf (!s.keyPressed (s.readV x)))

/-- FX07, read the delay timer (R237). -/
def execLdXDt (x : Reg) (s : State) : Result := .next (s.writeV x s.dt)

/-- FX0A, wait for a key press (R236). -/
def execLdXK (x : Reg) (s : State) : Result := .next (s.enterWait x)

/-- FX15, set the delay timer (R238). -/
def execLdDtX (x : Reg) (s : State) : Result := .next { s with dt := s.readV x }

/-- FX18, set the sound timer (R239). -/
def execLdStX (x : Reg) (s : State) : Result := .next { s with st := s.readV x }

end Sys2Proof.Machine
end

