-- ==== Sys2Proof/Machine/Cycle.lean ====
section
/-! DEFINITION. The Step transaction (40_cycle.md R120, R121, R125, R126). -/

namespace Sys2Proof.Machine

/-- Execution of a fetched word at a state whose PC is already advanced: the instruction it decodes to, or the no-op of an
unknown opcode (R121, 30_encoding.md R100). -/
def executeWord (op : Word) (s : State) : Result :=
  match decode op with
  | .instr i => exec i s
  | .rejected _ => .next (s.recordUnknown op)

/-- A Step in RUN: fetch, advance PC, decode, execute (R121). -/
def stepRun (s : State) : Result := executeWord s.fetchWord s.advancePc

/-- A Step, by STATE (R120). -/
def stepByMode (s : State) : Result :=
  match s.mode with
  | .run => stepRun s
  | .waitKey => .next s.resumeWait
  | .halted => .next s

end Sys2Proof.Machine
end

