-- ==== Sys2Proof/Machine/Step.lean ====
section
/-! DEFINITION. The step function, and the placing of one instruction where the next step fetches it. -/

namespace Sys2Proof.Machine

/-- One Step transaction (40_cycle.md R120). -/
def step (s : State) : Host.Outcome State Fault Refusal := stepByMode s

/-- `s` with an instruction word at PC, high byte first, and STATE = RUN, since only RUN fetches (R120, R121; log 4). -/
def State.withFetchWord (s : State) (nbits w : Nat) : State :=
  { s.storeBytes s.pc.toNat [highByte (tableWord nbits w), lowByte (tableWord nbits w)] with mode := .run }

end Sys2Proof.Machine
end

