-- ==== Sys2Proof/WellFormed.lean ====
section
/-! DEFINITION. Well-formedness: the ranges of an instruction's operands, of the machine's parameters and of a program image.
The operand types already bound every operand ("by construction of the 4-bit/12-bit fields", 30_encoding.md R95), so every
term of `Instr` meets its check; the checks of parameters and images can fail. -/

namespace Sys2Proof

/-- A register number, a row count or a key is a 4-bit value (30_encoding.md R92, R95). -/
def nibbleInRange (n : Nat) : Bool := decide (n < 16)

/-- NN is an 8-bit value 0..255 (30_encoding.md R94). -/
def byteInRange (n : Nat) : Bool := decide (n < 256)

/-- NNN is a 12-bit value 0..0xFFF (30_encoding.md R94). -/
def addressInRange (n : Nat) : Bool := decide (n < 4096)

/-- The operands of an instruction lie in the ranges its format gives them (30_encoding.md R93-R95). -/
def Instr.wellFormed : Instr → Bool
  | .cls | .ret => true
  | .jp nnn | .call nnn | .ldI nnn | .jpV0 nnn => addressInRange nnn.toNat
  | .seImm x nn | .sneImm x nn | .ldImm x nn | .addImm x nn | .rnd x nn => nibbleInRange x.val && byteInRange nn.toNat
  | .seReg x y | .mov x y | .or x y | .and x y | .xor x y | .add x y | .sub x y | .shr x y | .subn x y | .shl x y
  | .sneReg x y => nibbleInRange x.val && nibbleInRange y.val
  | .drw x y n => nibbleInRange x.val && nibbleInRange y.val && nibbleInRange n.toNat
  | .skp x | .sknp x | .ldXDt x | .ldXK x | .ldDtX x | .ldStX x | .addIX x | .ldFX x | .ldBX x | .stRegs x
  | .ldRegs x => nibbleInRange x.val

/-- A call-stack depth is one the source names, 12..16 (00_scope.md R11). -/
def stackDepthInRange (depth : Nat) : Bool := decide (12 ≤ depth) && decide (depth ≤ 16)

/-- A font has 80 bytes (70_reset_and_hazards.md R293). -/
def fontInRange (font : List Byte) : Bool := font.length == Config.fontSize

/-- A program image has at most 3584 bytes (70_reset_and_hazards.md R291, R292). -/
def imageInRange (image : List Byte) : Bool := decide (image.length ≤ Config.maxImage)

end Sys2Proof
end

