-- ==== Sys2Proof/Machine/HostOps.lean ====
section
/-! DEFINITION. The host's side: the transactions other than Step, the outputs, and schedules of transactions
(10_state.md R44, R45; 60_exceptions.md R265-R274; 70_reset_and_hazards.md R290-R292; log 4). -/

namespace Sys2Proof.Machine

/-- One timer under Tick: decremented while nonzero, never wrapping (60_exceptions.md R265). -/
def tickTimer (t : Byte) : Byte := if t = 0 then 0 else t - 1

/-- `Tick()`: acts the same in every STATE (60_exceptions.md R265, R267; log 22). -/
def tick (s : State) : State := { s with dt := tickTimer s.dt, st := tickTimer s.st }

/-- `SetKeys(mask)` (60_exceptions.md R271). -/
def setKeys (mask : Word) (s : State) : State := { s with keys := mask }

/-- `KeyPress(k)`: latched only in WAIT_KEY with the latch empty, else discarded (60_exceptions.md R272; log 18). -/
def keyPress (k : Nibble) (s : State) : State :=
  if s.mode = .waitKey ∧ s.kevValid = false then { s with kevValid := true, kevKey := k } else s

/-- `AckDisplay()` (60_exceptions.md R274). -/
def ackDisplay (s : State) : State := { s with dirty := false }

/-- What Load returns to the host (70_reset_and_hazards.md R290, R291). -/
inductive LoadStatus where
  | ok
  | imageTooLarge
  deriving DecidableEq, Repr

/-- Memory after Load: 0 everywhere but the font at 0x050 and the image at 0x200 (70_reset_and_hazards.md R290). The empty
list reads 0 outside 0x050..0x09F, and the 80 bytes of `font` are written over that range. -/
def loadedMemory (font image : List Byte) : Memory :=
  Memory.writeBytes (Memory.writeBytes [] Config.fontBase font) Config.progBase image

/-- `Load(image)` with FONT as an argument (00_scope.md R11): rejects a long image with no state change, else reinitialises
everything but KEYS (70_reset_and_hazards.md R290, R291; log 20). `draws` is the model's own and is kept (log 10). -/
def loadWith (font image : List Byte) (s : State) : State × LoadStatus :=
  if imageInRange image then
    ({ State.reset with mem := loadedMemory font image, keys := s.keys, draws := s.draws }, .ok)
  else (s, .imageTooLarge)

/-- `Load(image)` of this hardware, with its FONT (70_reset_and_hazards.md R293). -/
def load (image : List Byte) (s : State) : State × LoadStatus := loadWith Config.font image s

/-- `SOUND_ON = (ST != 0)` (60_exceptions.md R268). -/
def State.soundOn (s : State) : Bool := s.st != 0

/-- STATE as the host reads it (10_state.md R36). -/
def Mode.code : Mode → BitVec 2
  | .run => 0
  | .waitKey => 1
  | .halted => 2

/-- FAULT_CODE as the host reads it (10_state.md R38). -/
def FaultCode.code : FaultCode → BitVec 2
  | .none => 0
  | .stackUnderflow => 1
  | .stackOverflow => 2

/-- The host outputs of 10_state.md R45, but the status Load returns. -/
structure Outputs where
  fb : Display
  dirty : Bool
  soundOn : Bool
  state : BitVec 2
  faultCode : BitVec 2
  faultPc : Word
  unkValid : Bool
  unkOp : Word
  unkPc : Word
  deriving DecidableEq, Repr

/-- What the host reads between transactions, a pure function of the state (10_state.md R45, R46). -/
def State.outputs (s : State) : Outputs where
  fb := s.fb
  dirty := s.dirty
  soundOn := s.soundOn
  state := s.mode.code
  faultCode := s.faultCode.code
  faultPc := s.faultPc
  unkValid := s.unkValid
  unkOp := s.unkOp
  unkPc := s.unkPc

/-- The six host transactions (00_scope.md R9, 10_state.md R44). -/
inductive Transaction where
  | load (image : List Byte)
  | step
  | tick
  | setKeys (mask : Word)
  | keyPress (k : Nibble)
  | ackDisplay
  deriving DecidableEq, Repr

/-- One transaction, atomic (20_memory.md R69). -/
def transact (t : Transaction) (s : State) : Result :=
  match t with
  | .load image => .next (load image s).1
  | .step => step s
  | .tick => .next (tick s)
  | .setKeys mask => .next (setKeys mask s)
  | .keyPress k => .next (keyPress k s)
  | .ackDisplay => .next (ackDisplay s)

/-- A schedule: the host may issue any list of transactions (D1; 60_exceptions.md R254, 70_reset_and_hazards.md R306). -/
def runSchedule : List Transaction → State → Result
  | [], s => .next s
  | t :: ts, s =>
    match transact t s with
    | .next s' => runSchedule ts s'
    | .fault r => .fault r
    | .refused r => .refused r

end Sys2Proof.Machine
end

