-- ==== Sys2Proof/Safety.lean ====
section
/-! DEFINITION. The terms claims are stated in: frames, which instruction may write what, the invariant of the machine,
reachable states, safe runs and their ends, what a sprite covers, and which states a program or a step cannot tell apart. -/

namespace Sys2Proof.Machine

/-! ## Frames -/

/-- Every byte of memory reads as before. -/
def SameMemory (s t : State) : Prop := ∀ a, Memory.read t.mem a = Memory.read s.mem a

/-- Every address outside the `n` bytes stored at ascending addresses from `base` reads as before; addresses are compared
after the address decoder (20_memory.md R62). -/
def MemoryKeptOutside (base n : Nat) (s t : State) : Prop :=
  ∀ a, (∀ k < n, decodeAddress a ≠ decodeAddress (base + k)) → Memory.read t.mem a = Memory.read s.mem a

/-- Only V registers differ, and among them only those of `written`; memory reads as before. -/
def OnlyRegisters (written : List Reg) (s t : State) : Prop :=
  (∀ r, r ∉ written → t.readV r = s.readV r) ∧ SameMemory s t ∧ t = { s with v := t.v }

/-! ## Which instruction may write what (10_state.md R22, R27; 20_memory.md R68; 44_display.md R213) -/

/-- The V registers an instruction may write when it executes; FX0A writes VX only when it resumes (10_state.md R22). -/
def writtenRegs : Instr → List Reg
  | .ldImm x _ | .addImm x _ | .rnd x _ | .ldXDt x => [x]
  | .mov x _ | .or x _ | .and x _ | .xor x _ => [x]
  | .add x _ | .sub x _ | .shr x _ | .subn x _ | .shl x _ => [x, vf]
  | .drw _ _ _ => [vf]
  | .ldRegs x => (List.finRange 16).filter (fun k => decide (k ≤ x))
  | .cls | .ret | .jp _ | .call _ | .seImm _ _ | .sneImm _ _ | .seReg _ _ | .sneReg _ _ | .ldI _ | .jpV0 _ => []
  | .skp _ | .sknp _ | .ldXK _ | .ldDtX _ | .ldStX _ | .addIX _ | .ldFX _ | .ldBX _ | .stRegs _ => []

/-! ## The invariant -/

/-- What holds of every reachable state. -/
structure State.Inv (s : State) : Prop where
  /-- Memory is in its canonical form. -/
  memory : Memory.wf s.mem = true
  /-- SP is at most STACK_DEPTH (10_state.md R28). -/
  stackBound : s.sp.val ≤ Config.stackDepth
  /-- A key event is latched only in WAIT_KEY (60_exceptions.md R272). -/
  latch : s.kevValid = true → s.mode = .waitKey
  /-- In WAIT_KEY, PC holds the address of the FX0A instruction being waited on, and WAIT_X its X field (R24, R37). -/
  waiting : s.mode = .waitKey → decode s.fetchWord = .instr (.ldXK s.waitX)
  /-- The core is halted exactly when a fault is recorded (60_exceptions.md R252, R253). -/
  halted : s.mode = .halted ↔ s.faultCode ≠ .none
  /-- In HALTED, PC holds the faulting instruction's address plus 2 (R24). -/
  haltedPc : s.mode = .halted → s.pc = s.faultPc + 2
  /-- StackUnderflow came from 00EE with SP = 0, whose word is still at FAULT_PC (R251). -/
  underflow : s.faultCode = .stackUnderflow → s.sp.val = 0 ∧ decode (Memory.wordAt s.mem s.faultPc) = .instr .ret
  /-- StackOverflow came from 2NNN with SP = STACK_DEPTH, whose word is still at FAULT_PC (R251). -/
  overflow : s.faultCode = .stackOverflow →
    s.sp.val = Config.stackDepth ∧ ∃ nnn, decode (Memory.wordAt s.mem s.faultPc) = .instr (.call nnn)
  /-- FAULT_PC is 0 until a fault is raised (R39). -/
  noFault : s.faultCode = .none → s.faultPc = 0
  /-- A recorded unknown opcode is one (R40). -/
  unknown : s.unkValid = true → ∃ why, decode s.unkOp = .rejected why
  /-- The unknown-opcode record is 0 until an unknown opcode executes (R40). -/
  noUnknown : s.unkValid = false → s.unkOp = 0 ∧ s.unkPc = 0

/-! ## Runs -/

/-- The states a machine reaches from power-on under some schedule of host transactions (D1). -/
inductive Reachable : State → Prop where
  | powerOn : Reachable State.reset
  | transaction {s t : State} (h : Reachable s) (tr : Transaction) (ht : transact tr s = .next t) : Reachable t

/-- A state of a safe run: no stack fault has stopped the program (60_exceptions.md R252, R304). -/
def State.running (s : State) : Prop := s.mode ≠ .halted

/-- A Step fixed point: Step(s) = s for every draw (70_reset_and_hazards.md R304). -/
def StepFixedPoint (s : State) : Prop := ∀ n, step { s with draws := n } = .next { s with draws := n }

/-- The successful end of a program: a Step fixed point reached in RUN (70_reset_and_hazards.md R304). -/
def State.endedWell (s : State) : Prop := s.mode = .run ∧ StepFixedPoint s

/-! ## Sprites -/

/-- The pixel (px, py) lies under a set bit of the sprite of `n` rows at `base`, drawn at (x0, y0), each pixel wrapping
modulo 64 and 32 (44_display.md R211, R212). -/
def SpriteCovers (m : Memory) (base n x0 y0 : Nat) (px : Fin 64) (py : Fin 32) : Prop :=
  ∃ r c : Nat, r < n ∧ c < 8 ∧ (Memory.read m (base + r)).getLsbD (7 - c) = true ∧
    px.val = (x0 + c) % 64 ∧ py.val = (y0 + r) % 32

/-! ## Indistinguishable states -/

/-- The states differ at most in stack entries at index SP and above (10_state.md R29). -/
def AgreeUpToStaleStack (s t : State) : Prop :=
  t = { s with stack := t.stack } ∧ ∀ j : Fin 16, j.val < s.sp.val → t.stack[j] = s.stack[j]

/-- The states differ at most in the registers only the host reads: DIRTY, FAULT_CODE, FAULT_PC and the unknown-opcode
record (10_state.md R34, R38-R41). -/
def AgreeUpToHostRecords (s t : State) : Prop :=
  t = { s with dirty := t.dirty, faultCode := t.faultCode, faultPc := t.faultPc, unkValid := t.unkValid, unkOp := t.unkOp,
               unkPc := t.unkPc }

end Sys2Proof.Machine
end

