-- ==== Sys2Proof/Certificates/Slice0/Obligations.lean ====
section
/-! DEFINITION. The statements for the provers, one for each entry of OBLIGATIONS.json. -/

open Sys2Proof Sys2Proof.Machine

/-- Decoding the word of any well-formed instruction gives the instruction back (30_encoding.md sections 2, 4 and 5;
20_memory.md section 2). -/
def Obligations.DecodingInvertsEncoding : Prop :=
  ∀ (i : Instr) (rest : List Byte), i.wellFormed = true →
    decode (encode i) = .instr i ∧
    decodeBytes (highByte (encode i) :: lowByte (encode i) :: rest) = .instr i rest ∧
    decodeTableWord 16 (encode i).toNat = some i

/-- An instruction has one word: encoding what a word decodes to gives the word back (30_encoding.md sections 4 and
5). -/
def Obligations.EncodingInvertsDecoding : Prop :=
  ∀ (op : Word) (i : Instr), decode op = .instr i → i.wellFormed = true ∧ encode i = op

/-- Decoding agrees with the opcode map's match and mask rows (R99). -/
def Obligations.DecodingFollowsOpcodeMap : Prop :=
  opcodeMap.length = 34 ∧
  (∀ (op : Word) (row row' : OpcodeRow), row ∈ opcodeMap → row' ∈ opcodeMap →
    row.selectedBy op = true → row'.selectedBy op = true → row = row') ∧
  (∀ (op : Word) (i : Instr), decode op = .instr i →
    ∃ row, opcodeMap[i.rowNumber]? = some row ∧ row.selectedBy op = true) ∧
  (∀ op : Word, (∃ why, decode op = .rejected why) ↔ ∀ row ∈ opcodeMap, row.selectedBy op = false)

/-- The unknown words are exactly those of the six unknown spaces (30_encoding.md section 6). -/
def Obligations.UnknownWordsByFamily : Prop :=
  ∀ op : Word, (∃ why, decode op = .rejected why) ↔
    (op.toNat / 4096 = 0x0 ∧ op.toNat ≠ 0x00E0 ∧ op.toNat ≠ 0x00EE) ∨
    (op.toNat / 4096 = 0x5 ∧ op.toNat % 16 ≠ 0) ∨
    (op.toNat / 4096 = 0x8 ∧ op.toNat % 16 ∈ [0x8, 0x9, 0xA, 0xB, 0xC, 0xD, 0xF]) ∨
    (op.toNat / 4096 = 0x9 ∧ op.toNat % 16 ≠ 0) ∨
    (op.toNat / 4096 = 0xE ∧ op.toNat % 256 ∉ [0x9E, 0xA1]) ∨
    (op.toNat / 4096 = 0xF ∧ op.toNat % 256 ∉ [0x07, 0x0A, 0x15, 0x18, 0x1E, 0x29, 0x33, 0x55, 0x65])

/-- Words written out in the spec decode to the instructions the spec gives them (95_test_vectors.md section 2.1;
30_encoding.md section 4). -/
def Obligations.SpecWordsDecode : Prop :=
  decode 0x00E0 = .instr .cls ∧ decode 0x00E1 = .rejected .unknownFamily0 ∧ decode 0x0123 = .rejected .unknownFamily0 ∧
  decode 0x5120 = .instr (.seReg 1 2) ∧ decode 0x5121 = .rejected .unknownFamily5 ∧
  decode 0x8AB6 = .instr (.shr 0xA 0xB) ∧ decode 0x800E = .instr (.shl 0 0) ∧ decode 0x800F = .rejected .unknownFamily8 ∧
  decode 0x9AB0 = .instr (.sneReg 0xA 0xB) ∧ decode 0xB123 = .instr (.jpV0 0x123) ∧ decode 0xC5FF = .instr (.rnd 5 0xFF) ∧
  decode 0xD12F = .instr (.drw 1 2 0xF) ∧ decode 0xE39E = .instr (.skp 3) ∧ decode 0xFF0A = .instr (.ldXK 0xF) ∧
  decode 0xFA65 = .instr (.ldRegs 0xA) ∧ decode 0xF0FF = .rejected .unknownFamilyF

/-- A Step in RUN fetches big-endian, advances PC by 2, and runs the decoded instruction (R121). -/
def Obligations.StepRunsDecodedInstruction : Prop :=
  (∀ (s : State) (i : Instr), s.mode = .run →
    decode (wordOfBytes (Memory.read s.mem s.pc.toNat) (Memory.read s.mem (s.pc.toNat + 1))) = .instr i →
    step s = exec i { s with pc := s.pc + 2 }) ∧
  (∀ (s : State) (why : DecodeError), s.mode = .run →
    decode (wordOfBytes (Memory.read s.mem s.pc.toNat) (Memory.read s.mem (s.pc.toNat + 1))) = .rejected why →
    ∃ t, step s = .next t ∧ t.pc = s.pc + 2 ∧
      t.unkOp = wordOfBytes (Memory.read s.mem s.pc.toNat) (Memory.read s.mem (s.pc.toNat + 1)))

/-- A word that selects no row of the opcode map is a no-op that only records itself (R100). -/
def Obligations.UnknownOpcodeIsRecordedNoOp : Prop :=
  ∀ s : State, s.mode = .run → (∀ row ∈ opcodeMap, row.selectedBy s.fetchWord = false) →
    step s = .next { s with pc := s.pc + 2, unkValid := true, unkOp := s.fetchWord, unkPc := s.pc }

/-- A Step in WAIT_KEY stores a latched key and returns to RUN, or changes nothing (R125). -/
def Obligations.WaitingStepCompletesOnlyOnEvent : Prop :=
  ∀ s : State, s.mode = .waitKey →
    (s.kevValid = true → ∃ t, step s = .next t ∧ (t.readV s.waitX).toNat = s.kevKey.toNat ∧
      (∀ r, r ≠ s.waitX → t.readV r = s.readV r) ∧
      t = { s with v := t.v, kevValid := false, pc := s.pc + 2, mode := .run }) ∧
    (s.kevValid = false → step s = .next s)

/-- In HALTED a Step changes nothing, and only a successful Load leaves HALTED (R126). -/
def Obligations.HaltedCoreLeftOnlyByLoad : Prop :=
  ∀ s : State, s.mode = .halted →
    (∀ m : Memory, step { s with mem := m } = .next { s with mem := m }) ∧
    (∀ (tr : Transaction) (t : State), transact tr s = .next t → t.mode ≠ .halted →
      ∃ image : List Byte, tr = .load image ∧ image.length ≤ 3584) ∧
    (∀ (image : List Byte) (t : State), image.length ≤ 3584 → transact (.load image) s = .next t → t.mode = .run)

/-- Every Step, every transaction and every schedule of transactions returns a state (R127). -/
def Obligations.EveryTransactionReturns : Prop :=
  (∀ s : State, ∃ t, step s = .next t) ∧ (∀ (tr : Transaction) (s : State), ∃ t, transact tr s = .next t) ∧
  (∀ (schedule : List Transaction) (s : State), ∃ t, runSchedule schedule s = .next t)

/-- STATE changes only as the transition table says (R128). -/
def Obligations.StateChangesByTransitionTable : Prop :=
  ∀ (tr : Transaction) (s t : State), transact tr s = .next t →
    (∀ image, tr = .load image → t.mode = if image.length ≤ 3584 then .run else s.mode) ∧
    (tr = .step → s.mode = .run →
      (t.mode = .waitKey ↔ ∃ x, decode s.fetchWord = .instr (.ldXK x)) ∧
      (t.mode = .halted ↔ (decode s.fetchWord = .instr .ret ∧ s.sp.val = 0) ∨
        ((∃ nnn, decode s.fetchWord = .instr (.call nnn)) ∧ s.sp.val = Config.stackDepth))) ∧
    (tr = .step → s.mode = .waitKey → t.mode = if s.kevValid then .run else .waitKey) ∧
    (tr = .step → s.mode = .halted → t.mode = .halted) ∧
    (tr = .tick → t.mode = s.mode) ∧ (∀ mask, tr = .setKeys mask → t.mode = s.mode) ∧
    (∀ k, tr = .keyPress k → t.mode = s.mode) ∧ (tr = .ackDisplay → t.mode = s.mode)

/-- A Step never writes KEYS, and only FX15 and FX18 write the timers inside a Step (R131). -/
def Obligations.StepLeavesKeysAndTimers : Prop :=
  ∀ s t : State, step s = .next t →
    t.keys = s.keys ∧
    (t.dt = s.dt ∨ (s.mode = .run ∧ ∃ x, decode s.fetchWord = .instr (.ldDtX x) ∧ t.dt = s.readV x)) ∧
    (t.st = s.st ∨ (s.mode = .run ∧ ∃ x, decode s.fetchWord = .instr (.ldStX x) ∧ t.st = s.readV x))

/-- Apart from the draw of CXNN, a Step is a function of the core's state alone (40_cycle.md section 4). -/
def Obligations.StepDependsOnDrawOnlyForRnd : Prop :=
  (∀ (s t : State) (n : Nat), (s.mode = .run → ∀ x nn, decode s.fetchWord ≠ .instr (.rnd x nn)) → step s = .next t →
    step { s with draws := n } = .next { t with draws := n }) ∧
  (∀ (s : State) (x : Reg) (nn : Byte), s.mode = .run → decode s.fetchWord = .instr (.rnd x nn) →
    ∃ t, step s = .next t ∧ t.readV x = Config.rnd s.draws &&& nn ∧ (∀ r, r ≠ x → t.readV r = s.readV r) ∧
      t = { s with v := t.v, pc := s.pc + 2, draws := t.draws })

/-- An instruction writes no V register but those the spec's table names for it (10_state.md section 1; 42_alu.md
section 2). -/
def Obligations.OnlyNamedRegistersWritten : Prop :=
  (∀ (i : Instr) (s t : State), exec i s = .next t → ∀ r, r ∉ writtenRegs i → t.readV r = s.readV r) ∧
  (∀ (op : Word) (s : State) (r : Reg), (s.recordUnknown op).readV r = s.readV r)

/-- I, memory, the display, the stack, the timers and the records change only by the instructions the spec names
(10_state.md sections 3, 4, 5, 6, 7 and 9; 20_memory.md section 4; 44_display.md section 2). -/
def Obligations.OnlyNamedInstructionsWriteState : Prop :=
  ∀ (i : Instr) (s t : State), exec i s = .next t →
    (t.i ≠ s.i → (∃ nnn, i = .ldI nnn) ∨ (∃ x, i = .addIX x) ∨ ∃ x, i = .ldFX x) ∧
    (t.mem ≠ s.mem → (∃ x, i = .ldBX x) ∨ ∃ x, i = .stRegs x) ∧
    (t.fb ≠ s.fb ∨ t.dirty ≠ s.dirty → i = .cls ∨ ∃ x y n, i = .drw x y n) ∧
    (t.stack ≠ s.stack → ∃ nnn, i = .call nnn) ∧ (t.sp ≠ s.sp → i = .ret ∨ ∃ nnn, i = .call nnn) ∧
    (t.dt ≠ s.dt → ∃ x, i = .ldDtX x) ∧ (t.st ≠ s.st → ∃ x, i = .ldStX x) ∧
    (t.mode ≠ s.mode → i = .ret ∨ (∃ nnn, i = .call nnn) ∨ ∃ x, i = .ldXK x) ∧
    (t.faultCode ≠ s.faultCode ∨ t.faultPc ≠ s.faultPc → i = .ret ∨ ∃ nnn, i = .call nnn) ∧
    (t.waitX ≠ s.waitX ∨ t.kevValid ≠ s.kevValid → ∃ x, i = .ldXK x) ∧
    t.keys = s.keys ∧ t.kevKey = s.kevKey ∧ t.unkValid = s.unkValid ∧ t.unkOp = s.unkOp ∧ t.unkPc = s.unkPc

/-- The unknown-opcode record changes only when an unknown opcode executes or a successful Load clears it (10_state.md
section 9). -/
def Obligations.UnknownRecordChangesOnlyByUnknownOrLoad : Prop :=
  ∀ (tr : Transaction) (s t : State), transact tr s = .next t →
    (t.unkValid = s.unkValid ∧ t.unkOp = s.unkOp ∧ t.unkPc = s.unkPc) ∨
    ((∃ image : List Byte, tr = .load image ∧ image.length ≤ 3584) ∧ t.unkValid = false ∧ t.unkOp = 0 ∧ t.unkPc = 0) ∨
    (tr = .step ∧ s.mode = .run ∧ (∃ why, decode s.fetchWord = .rejected why) ∧
      t.unkValid = true ∧ t.unkOp = s.fetchWord ∧ t.unkPc = s.pc)

/-- 6XNN, 7XNN and 8XY0 complete with the spec's value in VX and change nothing else (R161; R162; R163). -/
def Obligations.LoadsMovesAndImmediateAdd : Prop :=
  ∀ (x y : Reg) (nn : Byte) (s : State),
    (∃ t, exec (.ldImm x nn) s = .next t ∧ t.readV x = nn ∧ OnlyRegisters [x] s t) ∧
    (∃ t, exec (.addImm x nn) s = .next t ∧ (t.readV x).toNat = ((s.readV x).toNat + nn.toNat) % 256 ∧
      OnlyRegisters [x] s t) ∧
    (∃ t, exec (.mov x y) s = .next t ∧ t.readV x = s.readV y ∧ OnlyRegisters [x] s t)

/-- 8XY1, 8XY2 and 8XY3 complete with the bitwise OR, AND and XOR in VX and leave VF alone (R164; R165; R166). -/
def Obligations.BitwiseOperations : Prop :=
  ∀ (x y : Reg) (s : State),
    (∃ t, exec (.or x y) s = .next t ∧
      (∀ k < 8, (t.readV x).getLsbD k = ((s.readV x).getLsbD k || (s.readV y).getLsbD k)) ∧ OnlyRegisters [x] s t) ∧
    (∃ t, exec (.and x y) s = .next t ∧
      (∀ k < 8, (t.readV x).getLsbD k = ((s.readV x).getLsbD k && (s.readV y).getLsbD k)) ∧ OnlyRegisters [x] s t) ∧
    (∃ t, exec (.xor x y) s = .next t ∧
      (∀ k < 8, (t.readV x).getLsbD k = ((s.readV x).getLsbD k ^^ (s.readV y).getLsbD k)) ∧ OnlyRegisters [x] s t)

/-- 8XY4 completes with the sum modulo 256 in VX and then the carry in VF (R167). -/
def Obligations.AddWritesSumThenCarry : Prop :=
  ∀ (x y : Reg) (s : State), ∃ t, exec (.add x y) s = .next t ∧
    (t.readV 15).toNat = (if (s.readV x).toNat + (s.readV y).toNat > 255 then 1 else 0) ∧
    (x ≠ 15 → (t.readV x).toNat = ((s.readV x).toNat + (s.readV y).toNat) % 256) ∧
    OnlyRegisters [x, 15] s t

/-- 8XY5 and 8XY7 complete with the difference modulo 256 in VX and then the not-borrow in VF (R168; R170). -/
def Obligations.SubtractWritesDifferenceThenNotBorrow : Prop :=
  ∀ (x y : Reg) (s : State),
    (∃ t, exec (.sub x y) s = .next t ∧
      (t.readV 15).toNat = (if (s.readV x).toNat ≥ (s.readV y).toNat then 1 else 0) ∧
      (x ≠ 15 → (t.readV x).toNat = ((s.readV x).toNat + 256 - (s.readV y).toNat) % 256) ∧ OnlyRegisters [x, 15] s t) ∧
    (∃ t, exec (.subn x y) s = .next t ∧
      (t.readV 15).toNat = (if (s.readV y).toNat ≥ (s.readV x).toNat then 1 else 0) ∧
      (x ≠ 15 → (t.readV x).toNat = ((s.readV y).toNat + 256 - (s.readV x).toNat) % 256) ∧ OnlyRegisters [x, 15] s t)

/-- 8XY6 and 8XYE complete with VY shifted by one in VX and then the bit shifted out in VF (R169; R171). -/
def Obligations.ShiftsTakeVyAndShiftedOutBit : Prop :=
  ∀ (x y : Reg) (s : State),
    (∃ t, exec (.shr x y) s = .next t ∧ (t.readV 15).toNat = (s.readV y).toNat % 2 ∧
      (x ≠ 15 → (t.readV x).toNat = (s.readV y).toNat / 2) ∧ OnlyRegisters [x, 15] s t) ∧
    (∃ t, exec (.shl x y) s = .next t ∧ (t.readV 15).toNat = (s.readV y).toNat / 128 ∧
      (x ≠ 15 → (t.readV x).toNat = (s.readV y).toNat * 2 % 256) ∧ OnlyRegisters [x, 15] s t)

/-- CXNN completes with a free byte masked by NN in VX (42_alu.md section 1). -/
def Obligations.RndMasksAFreshDraw : Prop :=
  ∀ (x : Reg) (nn : Byte) (s : State), ∃ t, exec (.rnd x nn) s = .next t ∧
    t.readV x = Config.rnd s.draws &&& nn ∧ (∀ k, nn.getLsbD k = false → (t.readV x).getLsbD k = false) ∧
    (nn = 0 → t.readV x = 0) ∧ (∀ r, r ≠ x → t.readV r = s.readV r) ∧ SameMemory s t ∧
    t.draws = s.draws + 1 ∧ t = { s with v := t.v, draws := t.draws }

/-- 1NNN and BNNN complete with PC = NNN and PC = NNN + V0, and change nothing else (R142; R149). -/
def Obligations.JumpsSetPc : Prop :=
  ∀ (nnn : Addr12) (s : State),
    (∃ t, exec (.jp nnn) s = .next t ∧ t.pc.toNat = nnn.toNat ∧ t = { s with pc := t.pc } ∧ SameMemory s t) ∧
    (∃ t, exec (.jpV0 nnn) s = .next t ∧ t.pc.toNat = nnn.toNat + (s.readV 0).toNat ∧ t = { s with pc := t.pc } ∧
      SameMemory s t)

/-- 3XNN, 4XNN, 5XY0 and 9XY0 complete, adding 2 to PC exactly when their comparison holds (R145; R146; R147; R148).
-/
def Obligations.SkipsCompareRegisters : Prop :=
  ∀ (x y : Reg) (nn : Byte) (s : State),
    exec (.seImm x nn) s = .next { s with pc := if s.readV x = nn then s.pc + 2 else s.pc } ∧
    exec (.sneImm x nn) s = .next { s with pc := if s.readV x = nn then s.pc else s.pc + 2 } ∧
    exec (.seReg x y) s = .next { s with pc := if s.readV x = s.readV y then s.pc + 2 else s.pc } ∧
    exec (.sneReg x y) s = .next { s with pc := if s.readV x = s.readV y then s.pc else s.pc + 2 }

/-- 2NNN completes below STACK_DEPTH, pushing PC and jumping; at STACK_DEPTH it raises StackOverflow (R143). -/
def Obligations.CallPushesReturnAddress : Prop :=
  ∀ (nnn : Addr12) (s : State),
    (s.sp.val < Config.stackDepth → ∃ t, exec (.call nnn) s = .next t ∧
      (∀ j : Fin 16, t.stack[j] = if j.val = s.sp.val then s.pc else s.stack[j]) ∧ t.sp.val = s.sp.val + 1 ∧
      t.pc.toNat = nnn.toNat ∧ t = { s with stack := t.stack, sp := t.sp, pc := t.pc } ∧ SameMemory s t) ∧
    (s.sp.val = Config.stackDepth →
      exec (.call nnn) s = .next { s with faultCode := .stackOverflow, faultPc := s.pc - 2, mode := .halted })

/-- 00EE completes with a return address on the stack, popping it into PC; with none it raises StackUnderflow (R141).
-/
def Obligations.ReturnPopsReturnAddress : Prop :=
  ∀ s : State,
    (0 < s.sp.val → ∃ t, exec .ret s = .next t ∧ (∀ j : Fin 16, j.val + 1 = s.sp.val → t.pc = s.stack[j]) ∧
      t.sp.val + 1 = s.sp.val ∧ t = { s with sp := t.sp, pc := t.pc } ∧ SameMemory s t) ∧
    (s.sp.val = 0 →
      exec .ret s = .next { s with faultCode := .stackUnderflow, faultPc := s.pc - 2, mode := .halted })

/-- A Step that raises a stack fault records it, halts, leaves PC at ipc + 2 and changes nothing else (R252). -/
def Obligations.StackFaultIsPrecise : Prop :=
  ∀ s : State, s.mode = .run →
    (decode s.fetchWord = .instr .ret → s.sp.val = 0 → ∃ t, step s = .next t ∧
      t = { s with pc := s.pc + 2, faultCode := .stackUnderflow, faultPc := s.pc, mode := .halted } ∧
      t.outputs.faultCode = 1 ∧ t.outputs.faultPc = s.pc ∧ t.outputs.state = 2) ∧
    (∀ nnn, decode s.fetchWord = .instr (.call nnn) → s.sp.val = Config.stackDepth → ∃ t, step s = .next t ∧
      t = { s with pc := s.pc + 2, faultCode := .stackOverflow, faultPc := s.pc, mode := .halted } ∧
      t.outputs.faultCode = 2 ∧ t.outputs.faultPc = s.pc ∧ t.outputs.state = 2)

/-- For every stack depth in 12..16, a call below the depth pushes and a call at the depth faults (00_scope.md section
4; 41_flow.md section 2). -/
def Obligations.CallOnEveryDepthInRange : Prop :=
  ∀ (depth : Nat) (target : Word) (s : State), stackDepthInRange depth = true →
    (s.sp.val < depth → ∃ j : Fin 16, j.val = s.sp.val ∧ (s.callWith depth target).stack[j] = s.pc ∧
      (s.callWith depth target).sp.val = s.sp.val + 1 ∧ (s.callWith depth target).pc = target ∧
      (s.callWith depth target).mode = s.mode) ∧
    (s.sp.val = depth →
      s.callWith depth target = { s with faultCode := .stackOverflow, faultPc := s.pc - 2, mode := .halted }) ∧
    (∀ nnn : Addr12, exec (.call nnn) s = .next (s.callWith Config.stackDepth (nnn.setWidth 16)))

/-- A return at the call's stack level goes back to the instruction after the call (41_flow.md section 2). -/
def Obligations.CallThenReturnResumesAfterCall : Prop :=
  ∀ (nnn : Addr12) (s : State), s.sp.val < Config.stackDepth → ∃ t, exec (.call nnn) s = .next t ∧
    ∀ u : State, u.stack = t.stack → u.sp = t.sp → ∃ w, exec .ret u = .next w ∧ w.pc = s.pc ∧ w.sp = s.sp

/-- ANNN, FX1E and FX29 complete with the spec's value in I and change nothing else (R191; R192; R193). -/
def Obligations.IndexRegisterLoads : Prop :=
  ∀ (x : Reg) (nnn : Addr12) (s : State),
    (∃ t, exec (.ldI nnn) s = .next t ∧ t.i.toNat = nnn.toNat ∧ t = { s with i := t.i } ∧ SameMemory s t) ∧
    (∃ t, exec (.addIX x) s = .next t ∧ t.i.toNat = (s.i.toNat + (s.readV x).toNat) % 65536 ∧ t = { s with i := t.i } ∧
      SameMemory s t) ∧
    (∃ t, exec (.ldFX x) s = .next t ∧ t.i.toNat = 0x050 + 5 * ((s.readV x).toNat % 16) ∧ t = { s with i := t.i } ∧
      SameMemory s t)

/-- FX33 completes with the three decimal digits of VX at I, I + 1, I + 2 and no other byte changed (R194). -/
def Obligations.DecimalDigitsStored : Prop :=
  ∀ (x : Reg) (s : State), Memory.wf s.mem = true → ∃ t, exec (.ldBX x) s = .next t ∧
    (Memory.read t.mem (s.indirect 0)).toNat = (s.readV x).toNat / 100 ∧
    (Memory.read t.mem (s.indirect 1)).toNat = (s.readV x).toNat / 10 % 10 ∧
    (Memory.read t.mem (s.indirect 2)).toNat = (s.readV x).toNat % 10 ∧
    MemoryKeptOutside (s.indirect 0) 3 s t ∧ t = { s with mem := t.mem } ∧ Memory.wf t.mem = true

/-- FX55 completes with V0..VX at I..I + X and no other byte changed (R195). -/
def Obligations.RegistersStored : Prop :=
  ∀ (x : Reg) (s : State), Memory.wf s.mem = true → ∃ t, exec (.stRegs x) s = .next t ∧
    (∀ k : Reg, k ≤ x → Memory.read t.mem (s.indirect k.val) = s.readV k) ∧
    MemoryKeptOutside (s.indirect 0) (x.val + 1) s t ∧ t = { s with mem := t.mem } ∧ Memory.wf t.mem = true

/-- FX65 completes with the bytes at I..I + X in V0..VX and changes nothing else (R196). -/
def Obligations.RegistersLoaded : Prop :=
  ∀ (x : Reg) (s : State), ∃ t, exec (.ldRegs x) s = .next t ∧
    (∀ k : Reg, k ≤ x → t.readV k = Memory.read s.mem ((s.i.toNat + k.val) % 4096)) ∧
    (∀ k : Reg, x < k → t.readV k = s.readV k) ∧ t = { s with v := t.v } ∧ SameMemory s t

/-- FX55 followed by FX65 with the same X and I gives V0..VX back (43_index_memory.md section 3; 20_memory.md section
5). -/
def Obligations.StoredRegistersLoadBack : Prop :=
  ∀ (x : Reg) (s : State), Memory.wf s.mem = true → ∃ t, exec (.stRegs x) s = .next t ∧
    ∀ u : State, u.mem = t.mem → u.i = s.i → ∃ w, exec (.ldRegs x) u = .next w ∧ ∀ k : Reg, k ≤ x → w.readV k = s.readV k

/-- The word fetched after FX55 is the one FX55 stored (20_memory.md sections 2 and 6). -/
def Obligations.FetchSeesStoredCode : Prop :=
  ∀ (x : Reg) (s t u : State), Memory.wf s.mem = true → exec (.stRegs x) s = .next t → u.mem = t.mem →
    ∀ k k' : Reg, k'.val = k.val + 1 → k' ≤ x → decodeAddress u.pc.toNat = decodeAddress (s.indirect k.val) →
      u.fetchWord = wordOfBytes (s.readV k) (s.readV k')

/-- Two memories in canonical form that read alike at every address are the same list (20_memory.md section 1). -/
def Obligations.EqualMemoriesAreEqualData : Prop :=
  ∀ m m' : Memory, Memory.wf m = true → Memory.wf m' = true → (∀ a, Memory.read m a = Memory.read m' a) → m = m'

/-- 00E0 completes with every pixel off and DIRTY set, and changes nothing else (R210). -/
def Obligations.ClsClearsEveryPixel : Prop :=
  ∀ s : State, ∃ t, exec .cls s = .next t ∧ (∀ px py, Display.pixel t.fb px py = false) ∧ t.dirty = true ∧
    t = { s with fb := t.fb, dirty := t.dirty } ∧ SameMemory s t

/-- DXYN completes, inverting exactly the pixels under set bits of the sprite, with VF the collision (R212). -/
def Obligations.DrwXorsSpriteAndReportsCollision : Prop :=
  ∀ (x y : Reg) (n : Nibble) (s : State), ∃ t, exec (.drw x y n) s = .next t ∧
    (∀ px py, (SpriteCovers s.mem s.i.toNat n.toNat (s.readV x).toNat (s.readV y).toNat px py →
        Display.pixel t.fb px py = !Display.pixel s.fb px py) ∧
      (¬ SpriteCovers s.mem s.i.toNat n.toNat (s.readV x).toNat (s.readV y).toNat px py →
        Display.pixel t.fb px py = Display.pixel s.fb px py)) ∧
    ((∃ px py, SpriteCovers s.mem s.i.toNat n.toNat (s.readV x).toNat (s.readV y).toNat px py ∧
        Display.pixel s.fb px py = true) → t.readV 15 = 1) ∧
    ((¬ ∃ px py, SpriteCovers s.mem s.i.toNat n.toNat (s.readV x).toNat (s.readV y).toNat px py ∧
        Display.pixel s.fb px py = true) → t.readV 15 = 0) ∧
    (∀ r, r ≠ 15 → t.readV r = s.readV r) ∧ t.dirty = true ∧ SameMemory s t ∧
    t = { s with v := t.v, fb := t.fb, dirty := t.dirty }

/-- Drawing the same sprite twice at the same place gives the buffer back, with VF telling what the first draw turned
on (44_display.md section 2; 95_test_vectors.md section 1). -/
def Obligations.DrawingTwiceRestoresDisplay : Prop :=
  ∀ (x y : Reg) (n : Nibble) (s : State), x ≠ 15 → y ≠ 15 → ∃ t u, exec (.drw x y n) s = .next t ∧
    exec (.drw x y n) t = .next u ∧ u.fb = s.fb ∧
    (u.readV 15 = 1 ↔ ∃ px py, SpriteCovers s.mem s.i.toNat n.toNat (s.readV x).toNat (s.readV y).toNat px py ∧
      Display.pixel s.fb px py = false)

/-- After Load, FX29 points I at the five font bytes of the digit in VX (43_index_memory.md section 2;
70_reset_and_hazards.md section 1). -/
def Obligations.GlyphAddressReadsFont : Prop :=
  ∀ (font image : List Byte) (s u : State) (x : Reg), fontInRange font = true → imageInRange image = true →
    u.mem = (loadWith font image s).1.mem → ∃ w, exec (.ldFX x) u = .next w ∧
      ∀ j < 5, font[5 * ((u.readV x).toNat % 16) + j]? = some (Memory.read w.mem (w.indirect j))

/-- EX9E and EXA1 complete, adding 2 to PC exactly when the key VX & 0xF is pressed, not pressed (R231; R232). -/
def Obligations.KeySkipsTestLowNibbleKey : Prop :=
  ∀ (x : Reg) (s : State),
    exec (.skp x) s = .next { s with pc := if s.keys.getLsbD ((s.readV x).toNat % 16) = true then s.pc + 2 else s.pc } ∧
    exec (.sknp x) s = .next { s with pc := if s.keys.getLsbD ((s.readV x).toNat % 16) = true then s.pc else s.pc + 2 }

/-- A Step on FX0A enters WAIT_KEY with PC at the instruction and an empty latch, VX unchanged (45_keypad_timer.md
section 3). -/
def Obligations.KeyWaitEnters : Prop :=
  ∀ (x : Reg) (s : State),
    exec (.ldXK x) s = .next { s with waitX := x, kevValid := false, pc := s.pc - 2, mode := .waitKey } ∧
    (s.mode = .run → decode s.fetchWord = .instr (.ldXK x) →
      step s = .next { s with waitX := x, kevValid := false, mode := .waitKey })

/-- FX0A waits through Steps, Ticks and SetKeys, and stores the first key event of the wait (45_keypad_timer.md
section 3; 40_cycle.md section 2; 60_exceptions.md section 4). -/
def Obligations.KeyWaitStoresFirstEvent : Prop :=
  ∀ (s : State) (x : Reg) (k0 k k' : Nibble) (mask : Word), s.mode = .run → decode s.fetchWord = .instr (.ldXK x) →
    ∃ t, runSchedule [.keyPress k0, .step, .step, .tick, .setKeys mask, .step, .keyPress k, .keyPress k', .step] s = .next t ∧
      (t.readV x).toNat = k.toNat ∧ (∀ r, r ≠ x → t.readV r = s.readV r) ∧
      t.dt.toNat = s.dt.toNat - 1 ∧ t.st.toNat = s.st.toNat - 1 ∧
      t = { s with v := t.v, pc := s.pc + 2, dt := t.dt, st := t.st, keys := mask, waitX := x, kevValid := false, kevKey := k }

/-- FX07, FX15 and FX18 complete with the spec's value in VX, DT and ST, and change nothing else (R237; R238; R239).
-/
def Obligations.TimerMoves : Prop :=
  ∀ (x : Reg) (s : State),
    (∃ t, exec (.ldXDt x) s = .next t ∧ t.readV x = s.dt ∧ OnlyRegisters [x] s t) ∧
    (∃ t, exec (.ldDtX x) s = .next t ∧ t.dt = s.readV x ∧ t = { s with dt := t.dt } ∧ SameMemory s t) ∧
    (∃ t, exec (.ldStX x) s = .next t ∧ t.st = s.readV x ∧ (t.soundOn = true ↔ s.readV x ≠ 0) ∧ t = { s with st := t.st } ∧
      SameMemory s t)

/-- n Ticks take n from each timer, stopping at 0, in every STATE, and change nothing else (R265; R267). -/
def Obligations.TicksCountTimersDown : Prop :=
  ∀ (n : Nat) (s : State), ∃ t, runSchedule (List.replicate n .tick) s = .next t ∧
    t.dt.toNat = s.dt.toNat - n ∧ t.st.toNat = s.st.toNat - n ∧ t = { s with dt := t.dt, st := t.st }

/-- SetKeys, KeyPress and AckDisplay change only the state their rules name (R271; R272; R274). -/
def Obligations.HostInputsChangeOnlyTheirState : Prop :=
  ∀ (mask : Word) (k : Nibble) (s : State),
    transact (.setKeys mask) s = .next { s with keys := mask } ∧
    transact .ackDisplay s = .next { s with dirty := false } ∧
    (s.mode = .waitKey → s.kevValid = false →
      transact (.keyPress k) s = .next { s with kevValid := true, kevKey := k }) ∧
    (s.mode ≠ .waitKey ∨ s.kevValid = true → transact (.keyPress k) s = .next s)

/-- SOUND_ON changes only by FX18, Tick or Load (60_exceptions.md section 3; 70_reset_and_hazards.md section 1). -/
def Obligations.SoundOnChangesOnlyWithSoundTimer : Prop :=
  (∀ s : State, s.soundOn = true ↔ s.st ≠ 0) ∧
  (∀ (tr : Transaction) (s t : State), transact tr s = .next t → t.soundOn ≠ s.soundOn →
    tr = .tick ∨ (∃ image, tr = .load image) ∨
    (tr = .step ∧ s.mode = .run ∧ ∃ x, decode s.fetchWord = .instr (.ldStX x)))

/-- Load of an image that fits resets every register and leaves memory 0 but for the font and the image (R290; R292).
-/
def Obligations.LoadReinitialisesEverything : Prop :=
  ∀ (font image : List Byte) (s : State), fontInRange font = true →
    (3584 < image.length → loadWith font image s = (s, .imageTooLarge)) ∧
    (image.length ≤ 3584 → ∃ t, loadWith font image s = (t, .ok) ∧
      (∀ r, t.readV r = 0) ∧ t.i = 0 ∧ t.pc = 0x200 ∧ t.sp = 0 ∧ (∀ j : Fin 16, t.stack[j] = 0) ∧ t.dt = 0 ∧ t.st = 0 ∧
      (∀ px py, Display.pixel t.fb px py = false) ∧ t.dirty = false ∧ t.kevValid = false ∧ t.kevKey = 0 ∧
      t.mode = .run ∧ t.waitX = 0 ∧ t.faultCode = .none ∧ t.faultPc = 0 ∧ t.unkValid = false ∧ t.unkOp = 0 ∧ t.unkPc = 0 ∧
      t.keys = s.keys ∧ Memory.wf t.mem = true ∧
      ∀ a < 4096, some (Memory.read t.mem a) =
        if 0x050 ≤ a ∧ a < 0x0A0 then font[a - 0x050]?
        else if 0x200 ≤ a ∧ a < 0x200 + image.length then image[a - 0x200]?
        else some 0)

/-- Load of an image longer than 3584 bytes fails and changes nothing (R291). -/
def Obligations.LongImageIsRejected : Prop :=
  ∀ (font image : List Byte) (s : State), 3584 < image.length → loadWith font image s = (s, .imageTooLarge)

/-- The reset state is what Load of an empty image gives, with KEYS = 0 (R296). -/
def Obligations.PowerOnIsLoadOfEmptyImage : Prop :=
  (∀ s : State, ∃ n, load [] s = ({ State.reset with keys := s.keys, draws := n }, .ok)) ∧ State.reset.keys = 0 ∧
  load [] State.reset = (State.reset, .ok)

/-- The reset state holds the values of the reset table, the font resident at 0x050 (10_state.md section 12;
70_reset_and_hazards.md section 1). -/
def Obligations.ResetStateValues : Prop :=
  (∀ r, State.reset.readV r = 0) ∧ State.reset.i = 0 ∧ State.reset.pc = 0x200 ∧ State.reset.sp = 0 ∧
  (∀ j : Fin 16, State.reset.stack[j] = 0) ∧ State.reset.dt = 0 ∧ State.reset.st = 0 ∧ State.reset.keys = 0 ∧ State.reset.mode = .run ∧
  State.reset.waitX = 0 ∧ State.reset.faultCode = .none ∧ State.reset.faultPc = 0 ∧ State.reset.unkValid = false ∧
  State.reset.unkOp = 0 ∧ State.reset.unkPc = 0 ∧ State.reset.kevValid = false ∧ State.reset.kevKey = 0 ∧
  State.reset.dirty = false ∧ (∀ px py, Display.pixel State.reset.fb px py = false) ∧
  (∀ k < 80, Config.font[k]? = some (Memory.read State.reset.mem (0x050 + k))) ∧
  (∀ a < 4096, ¬ (0x050 ≤ a ∧ a < 0x0A0) → Memory.read State.reset.mem a = 0)

/-- The invariant of the machine holds at reset (10_state.md sections 2, 9 and 12). -/
def Obligations.InvariantHoldsAtReset : Prop :=
  State.reset.Inv

/-- Every Step, and every other transaction, keeps the invariant of the machine (10_state.md sections 2 and 9;
60_exceptions.md sections 1 and 4; 70_reset_and_hazards.md section 1). -/
def Obligations.StepKeepsInvariant : Prop :=
  (∀ s t : State, s.Inv → step s = .next t → t.Inv) ∧
  (∀ (tr : Transaction) (s t : State), s.Inv → transact tr s = .next t → t.Inv)

/-- Every state reachable under any schedule of host transactions meets the invariant (10_state.md sections 2 and 9;
60_exceptions.md sections 1, 4 and 6). -/
def Obligations.ReachableStatesMeetInvariant : Prop :=
  ∀ s : State, Reachable s → s.Inv

/-- Only 2NNN and 00EE reach the stack, and no Step can observe an entry at SP or above (R29). -/
def Obligations.StaleStackEntriesUnobservable : Prop :=
  (∀ (i : Instr) (s t : State), i ≠ .ret → (∀ nnn, i ≠ .call nnn) → exec i s = .next t →
    ∀ (stack : Vector Word 16) (sp : Fin 17),
      exec i { s with stack := stack, sp := sp } = .next { t with stack := stack, sp := sp }) ∧
  (∀ s t s' : State, AgreeUpToStaleStack s t → step s = .next s' →
    ∃ t', step t = .next t' ∧ AgreeUpToStaleStack s' t')

/-- No Step can observe DIRTY, the fault record or the unknown-opcode record (10_state.md sections 7 and 9). -/
def Obligations.HostRecordsUnobservable : Prop :=
  ∀ s t s' : State, AgreeUpToHostRecords s t → step s = .next s' → ∃ t', step t = .next t' ∧ AgreeUpToHostRecords s' t'

/-- A self-jump is a successful end of a run; a wait without an event and HALTED are fixed points too
(70_reset_and_hazards.md section 4). -/
def Obligations.StepFixedPoints : Prop :=
  (∀ (s : State) (nnn : Addr12), s.mode = .run → decode s.fetchWord = .instr (.jp nnn) → s.pc.toNat = nnn.toNat →
    s.endedWell) ∧
  (∀ s : State, s.mode = .waitKey → s.kevValid = false → StepFixedPoint s ∧ ¬ s.endedWell) ∧
  (∀ s : State, s.mode = .halted → StepFixedPoint s ∧ ¬ s.endedWell)

/-- withFetchWord places an instruction so that the very next Step runs it (40_cycle.md section 1; 20_memory.md
section 2). -/
def Obligations.PlacedInstructionRunsNext : Prop :=
  ∀ (i : Instr) (s : State), Memory.wf s.mem = true →
    step (s.withFetchWord 16 (encode i).toNat) =
      exec i { s.withFetchWord 16 (encode i).toNat with pc := s.pc + 2 } ∧
    s.withFetchWord 16 (encode i).toNat = { s with mem := (s.withFetchWord 16 (encode i).toNat).mem, mode := .run } ∧
    MemoryKeptOutside s.pc.toNat 2 s (s.withFetchWord 16 (encode i).toNat)

/-- The host reads the outputs of the state, STATE and FAULT_CODE by their numbers, and the status Load returns (R45).
-/
def Obligations.HostReadsOutputs : Prop :=
  ∀ s : State, s.outputs.fb = s.fb ∧ s.outputs.dirty = s.dirty ∧ (s.outputs.soundOn = true ↔ s.st ≠ 0) ∧
    (s.outputs.state = 0 ↔ s.mode = .run) ∧ (s.outputs.state = 1 ↔ s.mode = .waitKey) ∧
    (s.outputs.state = 2 ↔ s.mode = .halted) ∧ (s.outputs.faultCode = 0 ↔ s.faultCode = .none) ∧
    (s.outputs.faultCode = 1 ↔ s.faultCode = .stackUnderflow) ∧ (s.outputs.faultCode = 2 ↔ s.faultCode = .stackOverflow) ∧
    s.outputs.faultPc = s.faultPc ∧ s.outputs.unkValid = s.unkValid ∧ s.outputs.unkOp = s.unkOp ∧
    s.outputs.unkPc = s.unkPc ∧
    ∀ image : List Byte, (load image s).2 = if image.length ≤ 3584 then .ok else .imageTooLarge
end

