-- ==== Sys2Proof/Laws/State.lean ====
section
/-! SUPPORT. What each named update of the state does to each field, and reading a register after an update. -/

namespace Sys2Proof.Machine

variable (s : State)

/-! The fields after `State.writeV`. -/

@[simp] theorem State.writeV_v (r : Reg) (b : Byte) : (s.writeV r b).v = s.v.set r.val b r.isLt := rfl
@[simp] theorem State.writeV_i (r : Reg) (b : Byte) : (s.writeV r b).i = s.i := rfl
@[simp] theorem State.writeV_pc (r : Reg) (b : Byte) : (s.writeV r b).pc = s.pc := rfl
@[simp] theorem State.writeV_sp (r : Reg) (b : Byte) : (s.writeV r b).sp = s.sp := rfl
@[simp] theorem State.writeV_stack (r : Reg) (b : Byte) : (s.writeV r b).stack = s.stack := rfl
@[simp] theorem State.writeV_dt (r : Reg) (b : Byte) : (s.writeV r b).dt = s.dt := rfl
@[simp] theorem State.writeV_st (r : Reg) (b : Byte) : (s.writeV r b).st = s.st := rfl
@[simp] theorem State.writeV_keys (r : Reg) (b : Byte) : (s.writeV r b).keys = s.keys := rfl
@[simp] theorem State.writeV_kevValid (r : Reg) (b : Byte) : (s.writeV r b).kevValid = s.kevValid := rfl
@[simp] theorem State.writeV_kevKey (r : Reg) (b : Byte) : (s.writeV r b).kevKey = s.kevKey := rfl
@[simp] theorem State.writeV_fb (r : Reg) (b : Byte) : (s.writeV r b).fb = s.fb := rfl
@[simp] theorem State.writeV_dirty (r : Reg) (b : Byte) : (s.writeV r b).dirty = s.dirty := rfl
@[simp] theorem State.writeV_mem (r : Reg) (b : Byte) : (s.writeV r b).mem = s.mem := rfl
@[simp] theorem State.writeV_mode (r : Reg) (b : Byte) : (s.writeV r b).mode = s.mode := rfl
@[simp] theorem State.writeV_waitX (r : Reg) (b : Byte) : (s.writeV r b).waitX = s.waitX := rfl
@[simp] theorem State.writeV_faultCode (r : Reg) (b : Byte) : (s.writeV r b).faultCode = s.faultCode := rfl
@[simp] theorem State.writeV_faultPc (r : Reg) (b : Byte) : (s.writeV r b).faultPc = s.faultPc := rfl
@[simp] theorem State.writeV_unkValid (r : Reg) (b : Byte) : (s.writeV r b).unkValid = s.unkValid := rfl
@[simp] theorem State.writeV_unkOp (r : Reg) (b : Byte) : (s.writeV r b).unkOp = s.unkOp := rfl
@[simp] theorem State.writeV_unkPc (r : Reg) (b : Byte) : (s.writeV r b).unkPc = s.unkPc := rfl
@[simp] theorem State.writeV_draws (r : Reg) (b : Byte) : (s.writeV r b).draws = s.draws := rfl

/-! The fields after `State.setPc`. -/

@[simp] theorem State.setPc_v (p : Word) : (s.setPc p).v = s.v := rfl
@[simp] theorem State.setPc_i (p : Word) : (s.setPc p).i = s.i := rfl
@[simp] theorem State.setPc_pc (p : Word) : (s.setPc p).pc = p := rfl
@[simp] theorem State.setPc_sp (p : Word) : (s.setPc p).sp = s.sp := rfl
@[simp] theorem State.setPc_stack (p : Word) : (s.setPc p).stack = s.stack := rfl
@[simp] theorem State.setPc_dt (p : Word) : (s.setPc p).dt = s.dt := rfl
@[simp] theorem State.setPc_st (p : Word) : (s.setPc p).st = s.st := rfl
@[simp] theorem State.setPc_keys (p : Word) : (s.setPc p).keys = s.keys := rfl
@[simp] theorem State.setPc_kevValid (p : Word) : (s.setPc p).kevValid = s.kevValid := rfl
@[simp] theorem State.setPc_kevKey (p : Word) : (s.setPc p).kevKey = s.kevKey := rfl
@[simp] theorem State.setPc_fb (p : Word) : (s.setPc p).fb = s.fb := rfl
@[simp] theorem State.setPc_dirty (p : Word) : (s.setPc p).dirty = s.dirty := rfl
@[simp] theorem State.setPc_mem (p : Word) : (s.setPc p).mem = s.mem := rfl
@[simp] theorem State.setPc_mode (p : Word) : (s.setPc p).mode = s.mode := rfl
@[simp] theorem State.setPc_waitX (p : Word) : (s.setPc p).waitX = s.waitX := rfl
@[simp] theorem State.setPc_faultCode (p : Word) : (s.setPc p).faultCode = s.faultCode := rfl
@[simp] theorem State.setPc_faultPc (p : Word) : (s.setPc p).faultPc = s.faultPc := rfl
@[simp] theorem State.setPc_unkValid (p : Word) : (s.setPc p).unkValid = s.unkValid := rfl
@[simp] theorem State.setPc_unkOp (p : Word) : (s.setPc p).unkOp = s.unkOp := rfl
@[simp] theorem State.setPc_unkPc (p : Word) : (s.setPc p).unkPc = s.unkPc := rfl
@[simp] theorem State.setPc_draws (p : Word) : (s.setPc p).draws = s.draws := rfl
@[simp] theorem State.setPc_readV (p : Word) (k : Reg) : (s.setPc p).readV k = s.readV k := rfl

/-! The fields after `State.setI`. -/

@[simp] theorem State.setI_v (w : Word) : (s.setI w).v = s.v := rfl
@[simp] theorem State.setI_i (w : Word) : (s.setI w).i = w := rfl
@[simp] theorem State.setI_pc (w : Word) : (s.setI w).pc = s.pc := rfl
@[simp] theorem State.setI_sp (w : Word) : (s.setI w).sp = s.sp := rfl
@[simp] theorem State.setI_stack (w : Word) : (s.setI w).stack = s.stack := rfl
@[simp] theorem State.setI_dt (w : Word) : (s.setI w).dt = s.dt := rfl
@[simp] theorem State.setI_st (w : Word) : (s.setI w).st = s.st := rfl
@[simp] theorem State.setI_keys (w : Word) : (s.setI w).keys = s.keys := rfl
@[simp] theorem State.setI_kevValid (w : Word) : (s.setI w).kevValid = s.kevValid := rfl
@[simp] theorem State.setI_kevKey (w : Word) : (s.setI w).kevKey = s.kevKey := rfl
@[simp] theorem State.setI_fb (w : Word) : (s.setI w).fb = s.fb := rfl
@[simp] theorem State.setI_dirty (w : Word) : (s.setI w).dirty = s.dirty := rfl
@[simp] theorem State.setI_mem (w : Word) : (s.setI w).mem = s.mem := rfl
@[simp] theorem State.setI_mode (w : Word) : (s.setI w).mode = s.mode := rfl
@[simp] theorem State.setI_waitX (w : Word) : (s.setI w).waitX = s.waitX := rfl
@[simp] theorem State.setI_faultCode (w : Word) : (s.setI w).faultCode = s.faultCode := rfl
@[simp] theorem State.setI_faultPc (w : Word) : (s.setI w).faultPc = s.faultPc := rfl
@[simp] theorem State.setI_unkValid (w : Word) : (s.setI w).unkValid = s.unkValid := rfl
@[simp] theorem State.setI_unkOp (w : Word) : (s.setI w).unkOp = s.unkOp := rfl
@[simp] theorem State.setI_unkPc (w : Word) : (s.setI w).unkPc = s.unkPc := rfl
@[simp] theorem State.setI_draws (w : Word) : (s.setI w).draws = s.draws := rfl
@[simp] theorem State.setI_readV (w : Word) (k : Reg) : (s.setI w).readV k = s.readV k := rfl

/-! The fields after `State.storeBytes`. -/

@[simp] theorem State.storeBytes_v (a : Nat) (bs : List Byte) : (s.storeBytes a bs).v = s.v := rfl
@[simp] theorem State.storeBytes_i (a : Nat) (bs : List Byte) : (s.storeBytes a bs).i = s.i := rfl
@[simp] theorem State.storeBytes_pc (a : Nat) (bs : List Byte) : (s.storeBytes a bs).pc = s.pc := rfl
@[simp] theorem State.storeBytes_sp (a : Nat) (bs : List Byte) : (s.storeBytes a bs).sp = s.sp := rfl
@[simp] theorem State.storeBytes_stack (a : Nat) (bs : List Byte) : (s.storeBytes a bs).stack = s.stack := rfl
@[simp] theorem State.storeBytes_dt (a : Nat) (bs : List Byte) : (s.storeBytes a bs).dt = s.dt := rfl
@[simp] theorem State.storeBytes_st (a : Nat) (bs : List Byte) : (s.storeBytes a bs).st = s.st := rfl
@[simp] theorem State.storeBytes_keys (a : Nat) (bs : List Byte) : (s.storeBytes a bs).keys = s.keys := rfl
@[simp] theorem State.storeBytes_kevValid (a : Nat) (bs : List Byte) : (s.storeBytes a bs).kevValid = s.kevValid := rfl
@[simp] theorem State.storeBytes_kevKey (a : Nat) (bs : List Byte) : (s.storeBytes a bs).kevKey = s.kevKey := rfl
@[simp] theorem State.storeBytes_fb (a : Nat) (bs : List Byte) : (s.storeBytes a bs).fb = s.fb := rfl
@[simp] theorem State.storeBytes_dirty (a : Nat) (bs : List Byte) : (s.storeBytes a bs).dirty = s.dirty := rfl
@[simp] theorem State.storeBytes_mem (a : Nat) (bs : List Byte) : (s.storeBytes a bs).mem = Memory.writeBytes s.mem a bs := rfl
@[simp] theorem State.storeBytes_mode (a : Nat) (bs : List Byte) : (s.storeBytes a bs).mode = s.mode := rfl
@[simp] theorem State.storeBytes_waitX (a : Nat) (bs : List Byte) : (s.storeBytes a bs).waitX = s.waitX := rfl
@[simp] theorem State.storeBytes_faultCode (a : Nat) (bs : List Byte) : (s.storeBytes a bs).faultCode = s.faultCode := rfl
@[simp] theorem State.storeBytes_faultPc (a : Nat) (bs : List Byte) : (s.storeBytes a bs).faultPc = s.faultPc := rfl
@[simp] theorem State.storeBytes_unkValid (a : Nat) (bs : List Byte) : (s.storeBytes a bs).unkValid = s.unkValid := rfl
@[simp] theorem State.storeBytes_unkOp (a : Nat) (bs : List Byte) : (s.storeBytes a bs).unkOp = s.unkOp := rfl
@[simp] theorem State.storeBytes_unkPc (a : Nat) (bs : List Byte) : (s.storeBytes a bs).unkPc = s.unkPc := rfl
@[simp] theorem State.storeBytes_draws (a : Nat) (bs : List Byte) : (s.storeBytes a bs).draws = s.draws := rfl
@[simp] theorem State.storeBytes_readV (a : Nat) (bs : List Byte) (k : Reg) : (s.storeBytes a bs).readV k = s.readV k := rfl

/-! The fields after `State.raiseFault`. -/

@[simp] theorem State.raiseFault_v (c : FaultCode) : (s.raiseFault c).v = s.v := rfl
@[simp] theorem State.raiseFault_i (c : FaultCode) : (s.raiseFault c).i = s.i := rfl
@[simp] theorem State.raiseFault_pc (c : FaultCode) : (s.raiseFault c).pc = s.pc := rfl
@[simp] theorem State.raiseFault_sp (c : FaultCode) : (s.raiseFault c).sp = s.sp := rfl
@[simp] theorem State.raiseFault_stack (c : FaultCode) : (s.raiseFault c).stack = s.stack := rfl
@[simp] theorem State.raiseFault_dt (c : FaultCode) : (s.raiseFault c).dt = s.dt := rfl
@[simp] theorem State.raiseFault_st (c : FaultCode) : (s.raiseFault c).st = s.st := rfl
@[simp] theorem State.raiseFault_keys (c : FaultCode) : (s.raiseFault c).keys = s.keys := rfl
@[simp] theorem State.raiseFault_kevValid (c : FaultCode) : (s.raiseFault c).kevValid = s.kevValid := rfl
@[simp] theorem State.raiseFault_kevKey (c : FaultCode) : (s.raiseFault c).kevKey = s.kevKey := rfl
@[simp] theorem State.raiseFault_fb (c : FaultCode) : (s.raiseFault c).fb = s.fb := rfl
@[simp] theorem State.raiseFault_dirty (c : FaultCode) : (s.raiseFault c).dirty = s.dirty := rfl
@[simp] theorem State.raiseFault_mem (c : FaultCode) : (s.raiseFault c).mem = s.mem := rfl
@[simp] theorem State.raiseFault_mode (c : FaultCode) : (s.raiseFault c).mode = .halted := rfl
@[simp] theorem State.raiseFault_waitX (c : FaultCode) : (s.raiseFault c).waitX = s.waitX := rfl
@[simp] theorem State.raiseFault_faultCode (c : FaultCode) : (s.raiseFault c).faultCode = c := rfl
@[simp] theorem State.raiseFault_faultPc (c : FaultCode) : (s.raiseFault c).faultPc = s.ipc := rfl
@[simp] theorem State.raiseFault_unkValid (c : FaultCode) : (s.raiseFault c).unkValid = s.unkValid := rfl
@[simp] theorem State.raiseFault_unkOp (c : FaultCode) : (s.raiseFault c).unkOp = s.unkOp := rfl
@[simp] theorem State.raiseFault_unkPc (c : FaultCode) : (s.raiseFault c).unkPc = s.unkPc := rfl
@[simp] theorem State.raiseFault_draws (c : FaultCode) : (s.raiseFault c).draws = s.draws := rfl
@[simp] theorem State.raiseFault_readV (c : FaultCode) (k : Reg) : (s.raiseFault c).readV k = s.readV k := rfl

/-! The fields after `State.recordUnknown`. -/

@[simp] theorem State.recordUnknown_v (op : Word) : (s.recordUnknown op).v = s.v := rfl
@[simp] theorem State.recordUnknown_i (op : Word) : (s.recordUnknown op).i = s.i := rfl
@[simp] theorem State.recordUnknown_pc (op : Word) : (s.recordUnknown op).pc = s.pc := rfl
@[simp] theorem State.recordUnknown_sp (op : Word) : (s.recordUnknown op).sp = s.sp := rfl
@[simp] theorem State.recordUnknown_stack (op : Word) : (s.recordUnknown op).stack = s.stack := rfl
@[simp] theorem State.recordUnknown_dt (op : Word) : (s.recordUnknown op).dt = s.dt := rfl
@[simp] theorem State.recordUnknown_st (op : Word) : (s.recordUnknown op).st = s.st := rfl
@[simp] theorem State.recordUnknown_keys (op : Word) : (s.recordUnknown op).keys = s.keys := rfl
@[simp] theorem State.recordUnknown_kevValid (op : Word) : (s.recordUnknown op).kevValid = s.kevValid := rfl
@[simp] theorem State.recordUnknown_kevKey (op : Word) : (s.recordUnknown op).kevKey = s.kevKey := rfl
@[simp] theorem State.recordUnknown_fb (op : Word) : (s.recordUnknown op).fb = s.fb := rfl
@[simp] theorem State.recordUnknown_dirty (op : Word) : (s.recordUnknown op).dirty = s.dirty := rfl
@[simp] theorem State.recordUnknown_mem (op : Word) : (s.recordUnknown op).mem = s.mem := rfl
@[simp] theorem State.recordUnknown_mode (op : Word) : (s.recordUnknown op).mode = s.mode := rfl
@[simp] theorem State.recordUnknown_waitX (op : Word) : (s.recordUnknown op).waitX = s.waitX := rfl
@[simp] theorem State.recordUnknown_faultCode (op : Word) : (s.recordUnknown op).faultCode = s.faultCode := rfl
@[simp] theorem State.recordUnknown_faultPc (op : Word) : (s.recordUnknown op).faultPc = s.faultPc := rfl
@[simp] theorem State.recordUnknown_unkValid (op : Word) : (s.recordUnknown op).unkValid = true := rfl
@[simp] theorem State.recordUnknown_unkOp (op : Word) : (s.recordUnknown op).unkOp = op := rfl
@[simp] theorem State.recordUnknown_unkPc (op : Word) : (s.recordUnknown op).unkPc = s.ipc := rfl
@[simp] theorem State.recordUnknown_draws (op : Word) : (s.recordUnknown op).draws = s.draws := rfl
@[simp] theorem State.recordUnknown_readV (op : Word) (k : Reg) : (s.recordUnknown op).readV k = s.readV k := rfl

/-! The fields after `State.enterWait`. -/

@[simp] theorem State.enterWait_v (x : Reg) : (s.enterWait x).v = s.v := rfl
@[simp] theorem State.enterWait_i (x : Reg) : (s.enterWait x).i = s.i := rfl
@[simp] theorem State.enterWait_pc (x : Reg) : (s.enterWait x).pc = s.ipc := rfl
@[simp] theorem State.enterWait_sp (x : Reg) : (s.enterWait x).sp = s.sp := rfl
@[simp] theorem State.enterWait_stack (x : Reg) : (s.enterWait x).stack = s.stack := rfl
@[simp] theorem State.enterWait_dt (x : Reg) : (s.enterWait x).dt = s.dt := rfl
@[simp] theorem State.enterWait_st (x : Reg) : (s.enterWait x).st = s.st := rfl
@[simp] theorem State.enterWait_keys (x : Reg) : (s.enterWait x).keys = s.keys := rfl
@[simp] theorem State.enterWait_kevValid (x : Reg) : (s.enterWait x).kevValid = false := rfl
@[simp] theorem State.enterWait_kevKey (x : Reg) : (s.enterWait x).kevKey = s.kevKey := rfl
@[simp] theorem State.enterWait_fb (x : Reg) : (s.enterWait x).fb = s.fb := rfl
@[simp] theorem State.enterWait_dirty (x : Reg) : (s.enterWait x).dirty = s.dirty := rfl
@[simp] theorem State.enterWait_mem (x : Reg) : (s.enterWait x).mem = s.mem := rfl
@[simp] theorem State.enterWait_mode (x : Reg) : (s.enterWait x).mode = .waitKey := rfl
@[simp] theorem State.enterWait_waitX (x : Reg) : (s.enterWait x).waitX = x := rfl
@[simp] theorem State.enterWait_faultCode (x : Reg) : (s.enterWait x).faultCode = s.faultCode := rfl
@[simp] theorem State.enterWait_faultPc (x : Reg) : (s.enterWait x).faultPc = s.faultPc := rfl
@[simp] theorem State.enterWait_unkValid (x : Reg) : (s.enterWait x).unkValid = s.unkValid := rfl
@[simp] theorem State.enterWait_unkOp (x : Reg) : (s.enterWait x).unkOp = s.unkOp := rfl
@[simp] theorem State.enterWait_unkPc (x : Reg) : (s.enterWait x).unkPc = s.unkPc := rfl
@[simp] theorem State.enterWait_draws (x : Reg) : (s.enterWait x).draws = s.draws := rfl
@[simp] theorem State.enterWait_readV (x : Reg) (k : Reg) : (s.enterWait x).readV k = s.readV k := rfl

/-! Reading a register after a register write. -/

theorem State.readV_writeV (r k : Reg) (b : Byte) : (s.writeV r b).readV k = if k = r then b else s.readV k := by
  simp only [readV, writeV, Fin.getElem_fin, Vector.getElem_set]
  by_cases h : k = r
  · simp [h]
  · simp [h, Fin.val_inj, Ne.symm h]

@[simp] theorem State.readV_writeV_same (r : Reg) (b : Byte) : (s.writeV r b).readV r = b := by
  simp [readV_writeV]

theorem State.readV_writeV_other {r k : Reg} (h : k ≠ r) (b : Byte) : (s.writeV r b).readV k = s.readV k := by
  simp [readV_writeV, h]

/-- Two register files with the same sixteen values are the same. -/
theorem State.v_ext {s t : State} (h : ∀ r, t.readV r = s.readV r) : t.v = s.v := by
  apply Vector.ext
  intro i hi
  exact h ⟨i, hi⟩

/-! The program counter. -/

@[simp] theorem State.advancePc_eq : s.advancePc = s.setPc (s.pc + 2) := rfl

theorem State.skipIf_eq (c : Bool) : s.skipIf c = s.setPc (if c then s.pc + 2 else s.pc) := by
  cases c <;> rfl

@[simp] theorem State.ipc_setPc_add_two (p : Word) : (s.setPc (p + 2#16)).ipc = p := by
  simp [State.ipc]

end Sys2Proof.Machine
end

