-- ==== Sys2Proof/Laws/Display.lean ====
section
/-! SUPPORT. Pixels: what an inversion does to each pixel, and what a draw leaves alone. -/

namespace Sys2Proof.Machine

/-- Inverting a pixel inverts that pixel and no other. -/
theorem Display.pixel_invert (fb : Display) (x px : Fin 64) (y py : Fin 32) :
    Display.pixel (Display.invert fb x y) px py =
      if px = x ∧ py = y then !Display.pixel fb x y else Display.pixel fb px py := by
  simp only [Display.pixel, Display.invert, Fin.getElem_fin, Vector.getElem_set]
  by_cases hx : px = x
  · subst hx
    by_cases hy : py = y
    · subst hy
      simp
    · simp [hy, Fin.val_inj, Ne.symm hy]
  · simp [hx, Fin.val_inj, Ne.symm hx]

@[simp] theorem Display.pixel_blank (x : Fin 64) (y : Fin 32) : Display.pixel Display.blank x y = false := by
  simp [Display.pixel, Display.blank]

/-- Two buffers with the same pixels are the same. -/
theorem Display.ext {fb fb' : Display} (h : ∀ x y, Display.pixel fb x y = Display.pixel fb' x y) : fb = fb' := by
  apply Vector.ext
  intro i hi
  apply Vector.ext
  intro j hj
  exact h ⟨i, hi⟩ ⟨j, hj⟩

/-- A sprite of no rows draws nothing. -/
@[simp] theorem Drawing.rows_nil (d : Drawing) (x0 y : Nat) : Drawing.rows d x0 y [] = d := rfl

/-- A plotted bit collides exactly when its pixel was on. -/
@[simp] theorem Drawing.collide_plot (d : Drawing) (x : Fin 64) (y : Fin 32) :
    (Drawing.plot d x y).collide = (d.collide || Display.pixel d.fb x y) := rfl

@[simp] theorem Drawing.fb_plot (d : Drawing) (x : Fin 64) (y : Fin 32) :
    (Drawing.plot d x y).fb = Display.invert d.fb x y := rfl

/-- DXYN changes only V, FB and DIRTY. -/
theorem State.drawSprite_eq (s : State) (x y : Reg) (n : Nat) :
    s.drawSprite x y n = { s with v := (s.drawSprite x y n).v, fb := (s.drawSprite x y n).fb, dirty := true } := rfl

/-- DXYN changes no V register but VF. -/
theorem State.readV_drawSprite (s : State) (x y k : Reg) (n : Nat) (h : k ≠ vf) :
    (s.drawSprite x y n).readV k = s.readV k := by
  simp only [State.drawSprite]
  rw [State.readV_writeV_other _ h]
  rfl

end Sys2Proof.Machine
end

