-- ==== Sys2Proof/Laws/Encoding.lean ====
section
/-! SUPPORT. The fields of the words the three operand formats lay out, the bytes of a word, and well-formedness. -/

namespace Sys2Proof

/-! The bits of a word in each format. -/

theorem getLsbD_encodeA (c : Nibble) (nnn : Addr12) (i : Nat) :
    (encodeA c nnn).getLsbD i = if i < 12 then nnn.getLsbD i else c.getLsbD (i - 12) := by
  show BitVec.getLsbD (c ++ nnn : BitVec (4 + 12)) i = _
  rw [BitVec.getLsbD_append]

theorem getLsbD_encodeXNN (c : Nibble) (x : Reg) (nn : Byte) (i : Nat) :
    (encodeXNN c x nn).getLsbD i =
      if i < 8 then nn.getLsbD i else if i < 12 then (regBits x).getLsbD (i - 8) else c.getLsbD (i - 12) := by
  show BitVec.getLsbD ((c ++ regBits x : BitVec (4 + 4)) ++ nn : BitVec (4 + 4 + 8)) i = _
  rw [BitVec.getLsbD_append, BitVec.getLsbD_append]
  grind

theorem getLsbD_encodeXYN (c : Nibble) (x y : Reg) (n : Nibble) (i : Nat) :
    (encodeXYN c x y n).getLsbD i =
      if i < 4 then n.getLsbD i else if i < 8 then (regBits y).getLsbD (i - 4)
      else if i < 12 then (regBits x).getLsbD (i - 8) else c.getLsbD (i - 12) := by
  show BitVec.getLsbD (((c ++ regBits x : BitVec (4 + 4)) ++ regBits y : BitVec (4 + 4 + 4)) ++ n : BitVec (4 + 4 + 4 + 4)) i = _
  rw [BitVec.getLsbD_append, BitVec.getLsbD_append, BitVec.getLsbD_append]
  grind

theorem getLsbD_wordOfBytes (high low : Byte) (i : Nat) :
    (wordOfBytes high low).getLsbD i = if i < 8 then low.getLsbD i else high.getLsbD (i - 8) := by
  show BitVec.getLsbD (high ++ low : BitVec (8 + 8)) i = _
  rw [BitVec.getLsbD_append]

/-- A register number read back from its four bits. -/
@[simp] theorem toFin_regBits (x : Reg) : (regBits x).toFin = x := rfl

@[simp] theorem regBits_fieldX (op : Word) : regBits (fieldX op) = fieldXBits op := rfl

@[simp] theorem regBits_fieldY (op : Word) : regBits (fieldY op) = fieldYBits op := rfl

/-! The fields of a word in format A. -/

@[simp] theorem fieldC_encodeA (c : Nibble) (nnn : Addr12) : fieldC (encodeA c nnn) = c := by
  apply BitVec.eq_of_getLsbD_eq
  intro i hi
  simp [fieldC, getLsbD_encodeA, hi]

@[simp] theorem fieldNNN_encodeA (c : Nibble) (nnn : Addr12) : fieldNNN (encodeA c nnn) = nnn := by
  apply BitVec.eq_of_getLsbD_eq
  intro i hi
  simp [fieldNNN, getLsbD_encodeA, hi]

/-! The fields of a word in format XNN or X. -/

@[simp] theorem fieldC_encodeXNN (c : Nibble) (x : Reg) (nn : Byte) : fieldC (encodeXNN c x nn) = c := by
  apply BitVec.eq_of_getLsbD_eq
  intro i hi
  simp [fieldC, getLsbD_encodeXNN, hi]
  omega

@[simp] theorem fieldX_encodeXNN (c : Nibble) (x : Reg) (nn : Byte) : fieldX (encodeXNN c x nn) = x := by
  have h : fieldXBits (encodeXNN c x nn) = regBits x := by
    apply BitVec.eq_of_getLsbD_eq
    intro i hi
    simp [fieldXBits, getLsbD_encodeXNN, hi]
    omega
  rw [fieldX, h, toFin_regBits]

@[simp] theorem fieldNN_encodeXNN (c : Nibble) (x : Reg) (nn : Byte) : fieldNN (encodeXNN c x nn) = nn := by
  apply BitVec.eq_of_getLsbD_eq
  intro i hi
  simp [fieldNN, getLsbD_encodeXNN, hi]

/-! The fields of a word in format XYN or XY. -/

@[simp] theorem fieldC_encodeXYN (c : Nibble) (x y : Reg) (n : Nibble) : fieldC (encodeXYN c x y n) = c := by
  apply BitVec.eq_of_getLsbD_eq
  intro i hi
  simp [fieldC, getLsbD_encodeXYN, hi]
  grind

@[simp] theorem fieldX_encodeXYN (c : Nibble) (x y : Reg) (n : Nibble) : fieldX (encodeXYN c x y n) = x := by
  have h : fieldXBits (encodeXYN c x y n) = regBits x := by
    apply BitVec.eq_of_getLsbD_eq
    intro i hi
    simp [fieldXBits, getLsbD_encodeXYN, hi]
    grind
  rw [fieldX, h, toFin_regBits]

@[simp] theorem fieldY_encodeXYN (c : Nibble) (x y : Reg) (n : Nibble) : fieldY (encodeXYN c x y n) = y := by
  have h : fieldYBits (encodeXYN c x y n) = regBits y := by
    apply BitVec.eq_of_getLsbD_eq
    intro i hi
    simp [fieldYBits, getLsbD_encodeXYN, hi]
    grind
  rw [fieldY, h, toFin_regBits]

@[simp] theorem fieldN_encodeXYN (c : Nibble) (x y : Reg) (n : Nibble) : fieldN (encodeXYN c x y n) = n := by
  apply BitVec.eq_of_getLsbD_eq
  intro i hi
  simp [fieldN, getLsbD_encodeXYN, hi]

/-! A word is its fields laid side by side. -/

theorem encodeA_fields (op : Word) : encodeA (fieldC op) (fieldNNN op) = op := by
  apply BitVec.eq_of_getLsbD_eq
  intro i hi
  simp [getLsbD_encodeA, fieldC, fieldNNN]
  grind

theorem encodeXNN_fields (op : Word) : encodeXNN (fieldC op) (fieldX op) (fieldNN op) = op := by
  apply BitVec.eq_of_getLsbD_eq
  intro i hi
  simp [getLsbD_encodeXNN, fieldC, fieldXBits, fieldNN]
  grind

theorem encodeXYN_fields (op : Word) : encodeXYN (fieldC op) (fieldX op) (fieldY op) (fieldN op) = op := by
  apply BitVec.eq_of_getLsbD_eq
  intro i hi
  simp [getLsbD_encodeXYN, fieldC, fieldXBits, fieldYBits, fieldN]
  grind

/-! The bytes of a word. -/

@[simp] theorem wordOfBytes_high_low (op : Word) : wordOfBytes (highByte op) (lowByte op) = op := by
  apply BitVec.eq_of_getLsbD_eq
  intro i hi
  simp [getLsbD_wordOfBytes, highByte, lowByte]
  grind

@[simp] theorem highByte_wordOfBytes (high low : Byte) : highByte (wordOfBytes high low) = high := by
  apply BitVec.eq_of_getLsbD_eq
  intro i hi
  simp [getLsbD_wordOfBytes, highByte, hi]

@[simp] theorem lowByte_wordOfBytes (high low : Byte) : lowByte (wordOfBytes high low) = low := by
  apply BitVec.eq_of_getLsbD_eq
  intro i hi
  simp [getLsbD_wordOfBytes, lowByte, hi]

/-- Every instruction is well formed, since the operand types bound the operands (30_encoding.md R95). -/
theorem Instr.wellFormed_all (i : Instr) : i.wellFormed = true := by
  cases i <;> simp [Instr.wellFormed, nibbleInRange, byteInRange, addressInRange] <;> omega

end Sys2Proof
end

