-- ==== Sys2Proof/Laws/Memory.lean ====
section
/-! SUPPORT. Memory: every operation keeps the canonical form, a read after a write gives the value written, and a write
leaves every other address alone. -/

namespace Sys2Proof.Machine

theorem decodeAddress_lt (a : Nat) : decodeAddress a < Config.memSize := Nat.mod_lt _ (by decide)

@[simp] theorem decodeAddress_idem (a : Nat) : decodeAddress (decodeAddress a) = decodeAddress a := by
  simp [decodeAddress]

/-- Within 4096 consecutive addresses, equal decoded addresses are equal offsets. -/
theorem decodeAddress_add_inj {a j k : Nat} (hj : j < Config.memSize) (hk : k < Config.memSize)
    (h : decodeAddress (a + j) = decodeAddress (a + k)) : j = k := by
  simp only [decodeAddress, Config.memSize] at *
  omega

/-- What the canonical form says of a nonempty memory. -/
theorem Memory.wfFrom_cons {lo a : Nat} {v : Byte} {m : Memory} :
    Memory.wfFrom lo ((a, v) :: m) = true ↔
      lo ≤ a ∧ a < Config.memSize ∧ v ≠ Memory.background a ∧ Memory.wfFrom (a + 1) m = true := by
  simp [Memory.wfFrom, and_assoc]

theorem Memory.wfFrom_mono {lo lo' : Nat} {m : Memory} (h : lo ≤ lo') (hm : Memory.wfFrom lo' m = true) :
    Memory.wfFrom lo m = true := by
  cases m with
  | nil => rfl
  | cons c m =>
    obtain ⟨h1, h2⟩ := Memory.wfFrom_cons.1 hm
    exact Memory.wfFrom_cons.2 ⟨by omega, h2⟩

/-- An address below every entry reads as the reset contents. -/
theorem Memory.readCell_below {lo a : Nat} {m : Memory} (hm : Memory.wfFrom lo m = true) (h : a < lo) :
    Memory.readCell m a = Memory.background a := by
  induction m generalizing lo with
  | nil => rfl
  | cons c m ih =>
    obtain ⟨h1, -, -, h4⟩ := Memory.wfFrom_cons.1 hm
    rw [Memory.readCell, if_neg (by omega)]
    exact ih h4 (by omega)

theorem Memory.wfFrom_writeCell {lo a : Nat} {m : Memory} (v : Byte) (hm : Memory.wfFrom lo m = true) (hlo : lo ≤ a)
    (ha : a < Config.memSize) : Memory.wfFrom lo (Memory.writeCell m a v) = true := by
  induction m generalizing lo with
  | nil =>
    by_cases hv : v = Memory.background a
    · simp [Memory.writeCell, hv, Memory.wfFrom]
    · simp [Memory.writeCell, hv, Memory.wfFrom, hlo, ha]
  | cons c m ih =>
    obtain ⟨b, w⟩ := c
    obtain ⟨h1, h2, h3, h4⟩ := Memory.wfFrom_cons.1 hm
    rw [Memory.writeCell]
    split
    · exact Memory.wfFrom_cons.2 ⟨h1, h2, h3, ih h4 (by omega)⟩
    · split
      · subst b
        split
        · exact Memory.wfFrom_mono (by omega) h4
        · exact Memory.wfFrom_cons.2 ⟨hlo, ha, by assumption, h4⟩
      · split
        · exact hm
        · exact Memory.wfFrom_cons.2 ⟨hlo, ha, by assumption, Memory.wfFrom_cons.2 ⟨by omega, h2, h3, h4⟩⟩

theorem Memory.readCell_writeCell {lo a : Nat} {m : Memory} (v : Byte) (b : Nat) (hm : Memory.wfFrom lo m = true) :
    Memory.readCell (Memory.writeCell m a v) b = if b = a then v else Memory.readCell m b := by
  induction m generalizing lo with
  | nil =>
    by_cases hb : a = b
    · subst hb
      by_cases hv : v = Memory.background a <;> simp [Memory.writeCell, Memory.readCell, hv]
    · by_cases hv : v = Memory.background a <;> simp [Memory.writeCell, Memory.readCell, hv, hb, Ne.symm hb]
  | cons c m ih =>
    obtain ⟨k, w⟩ := c
    obtain ⟨-, -, -, h4⟩ := Memory.wfFrom_cons.1 hm
    rw [Memory.writeCell]
    split
    · rw [Memory.readCell, Memory.readCell, ih h4]
      split <;> split <;> first | rfl | omega
    · split
      · subst k
        split
        · by_cases hb : b = a
          · subst hb
            simp_all [Memory.readCell_below h4]
          · simp [hb, Memory.readCell, Ne.symm hb]
        · by_cases hb : a = b <;> simp [hb, Memory.readCell, eq_comm]
      · split
        · by_cases hb : b = a
          · subst hb
            rw [if_pos rfl, Memory.readCell, if_neg (by omega), Memory.readCell_below h4 (by omega)]
            exact Eq.symm (by assumption)
          · rw [if_neg hb]
        · by_cases hb : b = a
          · simp [hb, Memory.readCell]
          · rw [if_neg hb, Memory.readCell, if_neg (Ne.symm hb)]

/-- A write keeps the canonical form. -/
theorem Memory.wf_write {m : Memory} (a : Nat) (v : Byte) (hm : Memory.wf m = true) : Memory.wf (Memory.write m a v) = true :=
  Memory.wfFrom_writeCell v hm (Nat.zero_le _) (decodeAddress_lt a)

/-- A read after a write: the value written at every address that decodes to the same byte, and the old value elsewhere. -/
theorem Memory.read_write {m : Memory} (a b : Nat) (v : Byte) (hm : Memory.wf m = true) :
    Memory.read (Memory.write m a v) b = if decodeAddress b = decodeAddress a then v else Memory.read m b :=
  Memory.readCell_writeCell v (decodeAddress b) hm

/-- A block write keeps the canonical form. -/
theorem Memory.wf_writeBytes {m : Memory} (a : Nat) (vs : List Byte) (hm : Memory.wf m = true) :
    Memory.wf (Memory.writeBytes m a vs) = true := by
  induction vs generalizing m a with
  | nil => exact hm
  | cons v vs ih => exact ih (a + 1) (Memory.wf_write a v hm)

/-- A block write leaves every address outside the block alone. -/
theorem Memory.read_writeBytes_outside {m : Memory} {a b : Nat} {vs : List Byte} (hm : Memory.wf m = true)
    (h : ∀ k < vs.length, decodeAddress b ≠ decodeAddress (a + k)) :
    Memory.read (Memory.writeBytes m a vs) b = Memory.read m b := by
  induction vs generalizing m a with
  | nil => rfl
  | cons v vs ih =>
    rw [Memory.writeBytes, ih (Memory.wf_write a v hm), Memory.read_write a b v hm, if_neg]
    · exact h 0 (by simp)
    · intro k hk
      have := h (k + 1) (by simpa using hk)
      rwa [show a + 1 + k = a + (k + 1) by omega]

/-- A block write puts byte `k` at address `a + k`. -/
theorem Memory.read_writeBytes_inside {m : Memory} {a k : Nat} {vs : List Byte} (hm : Memory.wf m = true)
    (hlen : vs.length ≤ Config.memSize) (hk : k < vs.length) :
    Memory.read (Memory.writeBytes m a vs) (a + k) = vs[k] := by
  induction vs generalizing m a k with
  | nil => simp at hk
  | cons v vs ih =>
    rw [Memory.writeBytes]
    cases k with
    | zero =>
      rw [Memory.read_writeBytes_outside (Memory.wf_write a v hm), Memory.read_write a _ v hm]
      · simp
      · intro j hj h
        simp only [List.length_cons, decodeAddress, Config.memSize] at *
        omega
    | succ k =>
      have hk' : k < vs.length := by simpa using hk
      rw [show a + (k + 1) = a + 1 + k by omega, ih (Memory.wf_write a v hm) (by simp at hlen; omega) hk']
      simp

@[simp] theorem Memory.length_readBytes (m : Memory) (a n : Nat) : (Memory.readBytes m a n).length = n := by
  induction n generalizing a with
  | zero => rfl
  | succ n ih => simp [Memory.readBytes, ih]

/-- Byte `k` of a block read is the byte at `a + k`. -/
theorem Memory.getElem_readBytes (m : Memory) (a n k : Nat) (hk : k < (Memory.readBytes m a n).length) :
    (Memory.readBytes m a n)[k] = Memory.read m (a + k) := by
  induction n generalizing a k with
  | zero => simp [Memory.readBytes] at hk
  | succ n ih =>
    cases k with
    | zero => rfl
    | succ k =>
      have := ih (a + 1) k (by simpa [Memory.readBytes] using hk)
      simp only [Memory.readBytes, List.getElem_cons_succ]
      rw [this, show a + 1 + k = a + (k + 1) by omega]

/-- Reset's memory has the canonical form. -/
theorem Memory.wf_reset : Memory.wf State.reset.mem = true := rfl

/-- Load's memory has the canonical form, whatever the font and the image. -/
theorem Memory.wf_loadedMemory (font image : List Byte) : Memory.wf (loadedMemory font image) = true :=
  Memory.wf_writeBytes _ _ (Memory.wf_writeBytes _ _ rfl)

/-- A block store keeps the canonical form. -/
theorem State.wf_storeBytes {s : State} (a : Nat) (vs : List Byte) (h : Memory.wf s.mem = true) :
    Memory.wf (s.storeBytes a vs).mem = true :=
  Memory.wf_writeBytes a vs h

end Sys2Proof.Machine
end

