-- ==== Sys2Proof/Laws/Ops.lean ====
section
/-! SUPPORT. One lemma for each shared operation, saying what it does; what a step can do; completion of every meaning. -/

namespace Sys2Proof.Machine

/-! ## The call stack -/

/-- A call below the depth pushes PC and jumps. -/
theorem State.callWith_push {depth : Nat} {s : State} (target : Word) (h : s.sp.val < depth) (hd : depth ≤ 16) :
    s.callWith depth target =
      { s with stack := s.stack.set s.sp.val s.pc (by omega), sp := ⟨s.sp.val + 1, by omega⟩, pc := target } := by
  rw [State.callWith, dif_pos ⟨h, by omega⟩]

/-- A call at the depth raises StackOverflow. -/
theorem State.callWith_overflow {depth : Nat} {s : State} (target : Word) (h : depth ≤ s.sp.val) :
    s.callWith depth target = s.raiseFault .stackOverflow := by
  rw [State.callWith, dif_neg (by omega)]

/-- A return with a return address pops it. -/
theorem State.popPc_pop {s : State} (h : 0 < s.sp.val) :
    s.popPc = { s with sp := ⟨s.sp.val - 1, by omega⟩, pc := s.stack[s.sp.val - 1]'(by omega) } := by
  rw [State.popPc, dif_neg (by omega)]

/-- A return with an empty stack raises StackUnderflow. -/
theorem State.popPc_underflow {s : State} (h : s.sp.val = 0) : s.popPc = s.raiseFault .stackUnderflow := by
  rw [State.popPc, dif_pos h]

/-! ## Operands and flags -/

/-- FX65's registers, one by one. -/
theorem State.readV_loadRegs (s : State) (x k : Reg) :
    (s.loadRegs x).readV k = if k ≤ x then Memory.read s.mem (s.i.toNat + k.val) else s.readV k := by
  simp [State.loadRegs, State.readV, State.indirect]

/-- FX65 changes only the V registers. -/
theorem State.loadRegs_eq (s : State) (x : Reg) : s.loadRegs x = { s with v := (s.loadRegs x).v } := rfl

@[simp] theorem State.length_firstRegs (s : State) (x : Reg) : (s.firstRegs x).length = x.val + 1 := by
  simp [State.firstRegs]

/-- The bytes FX55 stores, one by one. -/
theorem State.getElem_firstRegs (s : State) (x : Reg) (k : Nat) (hk : k < (s.firstRegs x).length) :
    (s.firstRegs x)[k] = s.readV ⟨k, by simp at hk; omega⟩ := by
  simp [State.firstRegs, State.readV]

/-- The result and the flag, register by register: VF holds the flag, even when X = 15. -/
theorem State.readV_writeResultAndFlag (s : State) (x k : Reg) (b : Byte) (f : Bool) :
    (s.writeResultAndFlag x b f).readV k = if k = vf then flagByte f else if k = x then b else s.readV k := by
  rw [State.writeResultAndFlag, State.readV_writeV, State.readV_writeV]

/-- Writing a result and a flag changes only the V registers. -/
theorem State.writeResultAndFlag_eq (s : State) (x : Reg) (b : Byte) (f : Bool) :
    s.writeResultAndFlag x b f = { s with v := (s.writeResultAndFlag x b f).v } := rfl

/-! ## The key wait and the host -/

theorem State.resumeWait_empty {s : State} (h : s.kevValid = false) : s.resumeWait = s := by
  simp [State.resumeWait, h]

theorem State.resumeWait_event {s : State} (h : s.kevValid = true) :
    s.resumeWait = { s.writeV s.waitX (s.kevKey.setWidth 8) with kevValid := false, pc := s.pc + 2, mode := .run } := by
  simp [State.resumeWait, h]

theorem keyPress_latched {s : State} (k : Nibble) (hm : s.mode = .waitKey) (hv : s.kevValid = false) :
    keyPress k s = { s with kevValid := true, kevKey := k } := by
  simp [keyPress, hm, hv]

theorem keyPress_discarded {s : State} (k : Nibble) (h : s.mode ≠ .waitKey ∨ s.kevValid = true) : keyPress k s = s := by
  rw [keyPress, if_neg]
  rintro ⟨h1, h2⟩
  rcases h with h | h <;> simp_all

theorem loadWith_ok {image : List Byte} (font : List Byte) (s : State) (h : image.length ≤ Config.maxImage) :
    loadWith font image s =
      ({ State.reset with mem := loadedMemory font image, keys := s.keys, draws := s.draws }, .ok) := by
  simp [loadWith, imageInRange, h]

theorem loadWith_tooLarge {image : List Byte} (font : List Byte) (s : State) (h : Config.maxImage < image.length) :
    loadWith font image s = (s, .imageTooLarge) := by
  simp [loadWith, imageInRange, h]

/-! ## Meanings, steps and transactions -/

/-- Every meaning answers a next state. -/
theorem exec_next (i : Instr) (s : State) : ∃ t, exec i s = .next t := by
  cases i <;> exact ⟨_, rfl⟩

theorem executeWord_instr {op : Word} {i : Instr} (h : decode op = .instr i) (s : State) : executeWord op s = exec i s := by
  rw [executeWord, h]

theorem executeWord_unknown {op : Word} {why : DecodeError} (h : decode op = .rejected why) (s : State) :
    executeWord op s = .next (s.recordUnknown op) := by
  rw [executeWord, h]

theorem step_of_run {s : State} (h : s.mode = .run) : step s = executeWord s.fetchWord s.advancePc := by
  rw [step, stepByMode, h, stepRun]

theorem step_of_wait {s : State} (h : s.mode = .waitKey) : step s = .next s.resumeWait := by
  rw [step, stepByMode, h]

theorem step_of_halted {s : State} (h : s.mode = .halted) : step s = .next s := by
  rw [step, stepByMode, h]

/-- What a step that answers `t` did: it executed an instruction, recorded an unknown opcode, waited or resumed, or was
halted. -/
theorem step_cases {s t : State} (h : step s = .next t) :
    (s.mode = .run ∧ ∃ i, decode s.fetchWord = .instr i ∧ exec i s.advancePc = .next t) ∨
    (s.mode = .run ∧ (∃ why, decode s.fetchWord = .rejected why) ∧ t = s.advancePc.recordUnknown s.fetchWord) ∨
    (s.mode = .waitKey ∧ t = s.resumeWait) ∨ (s.mode = .halted ∧ t = s) := by
  cases hm : s.mode with
  | run =>
    rw [step_of_run hm] at h
    cases hd : decode s.fetchWord with
    | instr i =>
      rw [executeWord_instr hd] at h
      exact .inl ⟨rfl, i, rfl, h⟩
    | rejected why =>
      rw [executeWord_unknown hd] at h
      injection h with h
      exact .inr (.inl ⟨rfl, ⟨why, rfl⟩, h.symm⟩)
  | waitKey =>
    rw [step_of_wait hm] at h
    injection h with h
    exact .inr (.inr (.inl ⟨rfl, h.symm⟩))
  | halted =>
    rw [step_of_halted hm] at h
    injection h with h
    exact .inr (.inr (.inr ⟨rfl, h.symm⟩))

/-- What a transaction that answers `t` did. -/
theorem transact_cases {tr : Transaction} {s t : State} (h : transact tr s = .next t) :
    (∃ image, tr = .load image ∧ t = (load image s).1) ∨ (tr = .step ∧ step s = .next t) ∨ (tr = .tick ∧ t = tick s) ∨
    (∃ mask, tr = .setKeys mask ∧ t = setKeys mask s) ∨ (∃ k, tr = .keyPress k ∧ t = keyPress k s) ∨
    (tr = .ackDisplay ∧ t = ackDisplay s) := by
  cases tr <;> simp_all [transact]

/-- A schedule whose first transaction answers `t` goes on from `t`. -/
theorem runSchedule_cons {tr : Transaction} {s t : State} (trs : List Transaction) (h : transact tr s = .next t) :
    runSchedule (tr :: trs) s = runSchedule trs t := by
  rw [runSchedule, h]

/-- A timer after Tick, as a number. -/
theorem toNat_tickTimer (b : Byte) : (tickTimer b).toNat = b.toNat - 1 := by
  rw [tickTimer]
  split
  · simp_all
  · bv_omega

/-! ## The placed instruction -/

@[simp] theorem tableWord_encode (i : Instr) : tableWord 16 (encode i).toNat = encode i := by
  apply BitVec.eq_of_toNat_eq
  have := (encode i).isLt
  simp [tableWord]
  omega

/-- The word stored at an address in big-endian order is the word read there (20_memory.md R65). -/
theorem Memory.wordAt_writeBytes {m : Memory} (a : Word) (op : Word) (h : Memory.wf m = true) :
    Memory.wordAt (Memory.writeBytes m a.toNat [highByte op, lowByte op]) a = op := by
  have hlen : [highByte op, lowByte op].length ≤ Config.memSize := by simp [Config.memSize]
  have h0 := Memory.read_writeBytes_inside (a := a.toNat) (k := 0) h hlen (by simp)
  have h1 := Memory.read_writeBytes_inside (a := a.toNat) (k := 1) h hlen (by simp)
  rw [Nat.add_zero] at h0
  rw [Memory.wordAt, h0, h1]
  simp

end Sys2Proof.Machine
end

