-- ==== Sys2Proof/Laws/PerInstr.lean ====
section
/-! SUPPORT. The statements about every instruction as syntax, one lemma for each constructor. -/

namespace Sys2Proof.Laws.SelectsRow

/-- The word of an instruction selects the instruction's own row of the opcode map (30_encoding.md R99). -/
def Statement (i : Instr) : Prop :=
  ∃ row, opcodeMap[i.rowNumber]? = some row ∧ row.selectedBy (encode i) = true

/-- A word of format A has its family nibble under the mask F000. -/
theorem mask_encodeA (c : Nibble) (nnn : Addr12) : encodeA c nnn &&& 0xF000#16 = encodeA c 0 := by
  apply BitVec.eq_of_getLsbD_eq
  intro i hi
  simp only [BitVec.getLsbD_and, getLsbD_encodeA]
  interval_cases i <;> simp

/-- A word of format XNN has its family nibble under the mask F000. -/
theorem mask_encodeXNN (c : Nibble) (x : Reg) (nn : Byte) : encodeXNN c x nn &&& 0xF000#16 = encodeXNN c 0 0 := by
  apply BitVec.eq_of_getLsbD_eq
  intro i hi
  simp only [BitVec.getLsbD_and, getLsbD_encodeXNN]
  interval_cases i <;> simp [regBits]

/-- A word of format X has its family nibble and its byte under the mask F0FF. -/
theorem mask_encodeX (c : Nibble) (x : Reg) (nn : Byte) : encodeXNN c x nn &&& 0xF0FF#16 = encodeXNN c 0 nn := by
  apply BitVec.eq_of_getLsbD_eq
  intro i hi
  simp only [BitVec.getLsbD_and, getLsbD_encodeXNN]
  interval_cases i <;> simp [regBits]

/-- A word of format XY has its family nibble and its low nibble under the mask F00F. -/
theorem mask_encodeXY (c : Nibble) (x y : Reg) (n : Nibble) : encodeXYN c x y n &&& 0xF00F#16 = encodeXYN c 0 0 n := by
  apply BitVec.eq_of_getLsbD_eq
  intro i hi
  simp only [BitVec.getLsbD_and, getLsbD_encodeXYN]
  interval_cases i <;> simp [regBits]

/-- A word of format XYN has its family nibble under the mask F000. -/
theorem mask_encodeXYN (c : Nibble) (x y : Reg) (n : Nibble) : encodeXYN c x y n &&& 0xF000#16 = encodeXYN c 0 0 0 := by
  apply BitVec.eq_of_getLsbD_eq
  intro i hi
  simp only [BitVec.getLsbD_and, getLsbD_encodeXYN]
  interval_cases i <;> simp [regBits]

theorem cls : Statement .cls := ⟨_, rfl, by decide⟩
theorem ret : Statement .ret := ⟨_, rfl, by decide⟩
theorem jp (nnn : Addr12) : Statement (.jp nnn) := ⟨_, rfl, beq_iff_eq.2 ((mask_encodeA ..).trans (by decide))⟩
theorem call (nnn : Addr12) : Statement (.call nnn) := ⟨_, rfl, beq_iff_eq.2 ((mask_encodeA ..).trans (by decide))⟩
theorem seImm (x : Reg) (nn : Byte) : Statement (.seImm x nn) := ⟨_, rfl, beq_iff_eq.2 ((mask_encodeXNN ..).trans (by decide))⟩
theorem sneImm (x : Reg) (nn : Byte) : Statement (.sneImm x nn) := ⟨_, rfl, beq_iff_eq.2 ((mask_encodeXNN ..).trans (by decide))⟩
theorem seReg (x y : Reg) : Statement (.seReg x y) := ⟨_, rfl, beq_iff_eq.2 ((mask_encodeXY ..).trans (by decide))⟩
theorem ldImm (x : Reg) (nn : Byte) : Statement (.ldImm x nn) := ⟨_, rfl, beq_iff_eq.2 ((mask_encodeXNN ..).trans (by decide))⟩
theorem addImm (x : Reg) (nn : Byte) : Statement (.addImm x nn) := ⟨_, rfl, beq_iff_eq.2 ((mask_encodeXNN ..).trans (by decide))⟩
theorem mov (x y : Reg) : Statement (.mov x y) := ⟨_, rfl, beq_iff_eq.2 ((mask_encodeXY ..).trans (by decide))⟩
theorem or (x y : Reg) : Statement (.or x y) := ⟨_, rfl, beq_iff_eq.2 ((mask_encodeXY ..).trans (by decide))⟩
theorem and (x y : Reg) : Statement (.and x y) := ⟨_, rfl, beq_iff_eq.2 ((mask_encodeXY ..).trans (by decide))⟩
theorem xor (x y : Reg) : Statement (.xor x y) := ⟨_, rfl, beq_iff_eq.2 ((mask_encodeXY ..).trans (by decide))⟩
theorem add (x y : Reg) : Statement (.add x y) := ⟨_, rfl, beq_iff_eq.2 ((mask_encodeXY ..).trans (by decide))⟩
theorem sub (x y : Reg) : Statement (.sub x y) := ⟨_, rfl, beq_iff_eq.2 ((mask_encodeXY ..).trans (by decide))⟩
theorem shr (x y : Reg) : Statement (.shr x y) := ⟨_, rfl, beq_iff_eq.2 ((mask_encodeXY ..).trans (by decide))⟩
theorem subn (x y : Reg) : Statement (.subn x y) := ⟨_, rfl, beq_iff_eq.2 ((mask_encodeXY ..).trans (by decide))⟩
theorem shl (x y : Reg) : Statement (.shl x y) := ⟨_, rfl, beq_iff_eq.2 ((mask_encodeXY ..).trans (by decide))⟩
theorem sneReg (x y : Reg) : Statement (.sneReg x y) := ⟨_, rfl, beq_iff_eq.2 ((mask_encodeXY ..).trans (by decide))⟩
theorem ldI (nnn : Addr12) : Statement (.ldI nnn) := ⟨_, rfl, beq_iff_eq.2 ((mask_encodeA ..).trans (by decide))⟩
theorem jpV0 (nnn : Addr12) : Statement (.jpV0 nnn) := ⟨_, rfl, beq_iff_eq.2 ((mask_encodeA ..).trans (by decide))⟩
theorem rnd (x : Reg) (nn : Byte) : Statement (.rnd x nn) := ⟨_, rfl, beq_iff_eq.2 ((mask_encodeXNN ..).trans (by decide))⟩
theorem drw (x y : Reg) (n : Nibble) : Statement (.drw x y n) := ⟨_, rfl, beq_iff_eq.2 ((mask_encodeXYN ..).trans (by decide))⟩
theorem skp (x : Reg) : Statement (.skp x) := ⟨_, rfl, beq_iff_eq.2 ((mask_encodeX ..).trans (by decide))⟩
theorem sknp (x : Reg) : Statement (.sknp x) := ⟨_, rfl, beq_iff_eq.2 ((mask_encodeX ..).trans (by decide))⟩
theorem ldXDt (x : Reg) : Statement (.ldXDt x) := ⟨_, rfl, beq_iff_eq.2 ((mask_encodeX ..).trans (by decide))⟩
theorem ldXK (x : Reg) : Statement (.ldXK x) := ⟨_, rfl, beq_iff_eq.2 ((mask_encodeX ..).trans (by decide))⟩
theorem ldDtX (x : Reg) : Statement (.ldDtX x) := ⟨_, rfl, beq_iff_eq.2 ((mask_encodeX ..).trans (by decide))⟩
theorem ldStX (x : Reg) : Statement (.ldStX x) := ⟨_, rfl, beq_iff_eq.2 ((mask_encodeX ..).trans (by decide))⟩
theorem addIX (x : Reg) : Statement (.addIX x) := ⟨_, rfl, beq_iff_eq.2 ((mask_encodeX ..).trans (by decide))⟩
theorem ldFX (x : Reg) : Statement (.ldFX x) := ⟨_, rfl, beq_iff_eq.2 ((mask_encodeX ..).trans (by decide))⟩
theorem ldBX (x : Reg) : Statement (.ldBX x) := ⟨_, rfl, beq_iff_eq.2 ((mask_encodeX ..).trans (by decide))⟩
theorem stRegs (x : Reg) : Statement (.stRegs x) := ⟨_, rfl, beq_iff_eq.2 ((mask_encodeX ..).trans (by decide))⟩
theorem ldRegs (x : Reg) : Statement (.ldRegs x) := ⟨_, rfl, beq_iff_eq.2 ((mask_encodeX ..).trans (by decide))⟩

end Sys2Proof.Laws.SelectsRow
end

