-- ==== Sys2Proof/Tests/Slice0.lean ====
section
/-! SUPPORT. Tests: ill-formed values refused, words of every instruction decoded, one step on small states with the values
of spec/95_test_vectors.md (its number in each docstring), and a witness for the hypotheses of each statement. -/

namespace Sys2Proof.Tests

open Sys2Proof Sys2Proof.Machine

/-! ## Helpers -/

/-- The reset state with V registers written. -/
def regs (rs : List (Reg × Byte)) : State := rs.foldl (fun s r => s.writeV r.1 r.2) State.reset

/-- The word `w` placed at `pc`, with PC there: the vectors' "Step op W at A". -/
def placed (pc : Word) (w : Nat) (s : State) : State := { s with pc := pc }.withFetchWord 16 w

/-- Whether a result is a next state of which `p` holds. -/
def holds (p : State → Bool) : Result → Bool
  | .next t => p t
  | .fault _ => false
  | .refused _ => false

/-- Whether a Step on the word `w` at 0x200 gives a next state of which `p` holds. -/
def steps (w : Nat) (s : State) (p : State → Bool) : Bool := holds p (step (placed 0x200 w s))

/-- The pixels that are on, column by column. -/
def lit (s : State) : List (Fin 64 × Fin 32) :=
  (List.finRange 64).flatMap fun x =>
    if s.fb[x] = Vector.replicate 32 false then []
    else ((List.finRange 32).filter (fun y => Display.pixel s.fb x y)).map fun y => (x, y)

/-- A state waiting on F30A at 0x200. -/
def waiting : State := { placed 0x200 0xF30A State.reset with mode := .waitKey, waitX := 3 }

/-- A state halted by 00EE at 0x200. -/
def halted : State :=
  { placed 0x200 0x00EE State.reset with pc := 0x202, mode := .halted, faultCode := .stackUnderflow, faultPc := 0x200 }

/-! ## Ill-formed values are refused -/

theorem test_refuses_register_16 : nibbleInRange 15 = true ∧ nibbleInRange 16 = false := by decide
theorem test_refuses_byte_256 : byteInRange 255 = true ∧ byteInRange 256 = false := by decide
theorem test_refuses_address_4096 : addressInRange 4095 = true ∧ addressInRange 4096 = false := by decide
theorem test_refuses_depths_outside_12_to_16 :
    stackDepthInRange 11 = false ∧ stackDepthInRange 12 = true ∧ stackDepthInRange 16 = true ∧
    stackDepthInRange 17 = false := by decide
theorem test_refuses_short_font : fontInRange Config.font = true ∧ fontInRange (Config.font.drop 1) = false := by decide
theorem test_refuses_long_image :
    imageInRange (List.replicate 3584 0) = true ∧ imageInRange (List.replicate 3585 0) = false := by
  rw [imageInRange, imageInRange, List.length_replicate, List.length_replicate]
  decide
/-- Every operand of an instruction is in range by its type, so the check accepts every term (30_encoding.md R95). -/
theorem test_accepts_largest_operands : Instr.wellFormed (.drw 15 15 15) = true ∧ Instr.wellFormed (.jp 0xFFF) = true ∧
    Instr.wellFormed (.rnd 15 0xFF) = true := by decide

/-! ## Decoding: words written out bit by bit from the rows of 30_encoding.md R99 -/

theorem test_decode_cls : decode 0b0000000011100000 = .instr .cls := by decide
theorem test_decode_ret : decode 0b0000000011101110 = .instr .ret := by decide
theorem test_decode_jp : decode 0b0001101010111100 = .instr (.jp 0xABC) := by decide
theorem test_decode_call : decode 0b0010010000000001 = .instr (.call 0x401) := by decide
theorem test_decode_seImm : decode 0b0011111100000001 = .instr (.seImm 0xF 0x01) := by decide
theorem test_decode_sneImm : decode 0b0100001101000010 = .instr (.sneImm 3 0x42) := by decide
theorem test_decode_seReg : decode 0b0101000100100000 = .instr (.seReg 1 2) := by decide
theorem test_decode_ldImm : decode 0b0110111110101011 = .instr (.ldImm 0xF 0xAB) := by decide
theorem test_decode_addImm : decode 0b0111000100000010 = .instr (.addImm 1 0x02) := by decide
theorem test_decode_mov : decode 0b1000000100100000 = .instr (.mov 1 2) := by decide
theorem test_decode_or : decode 0b1000000100100001 = .instr (.or 1 2) := by decide
theorem test_decode_and : decode 0b1000000100100010 = .instr (.and 1 2) := by decide
theorem test_decode_xor : decode 0b1000000100100011 = .instr (.xor 1 2) := by decide
theorem test_decode_add : decode 0b1000111100100100 = .instr (.add 0xF 2) := by decide
theorem test_decode_sub : decode 0b1000000100100101 = .instr (.sub 1 2) := by decide
theorem test_decode_shr : decode 0b1000101010110110 = .instr (.shr 0xA 0xB) := by decide
theorem test_decode_subn : decode 0b1000000110110111 = .instr (.subn 1 0xB) := by decide
theorem test_decode_shl : decode 0b1000000100101110 = .instr (.shl 1 2) := by decide
theorem test_decode_sneReg : decode 0b1001101010110000 = .instr (.sneReg 0xA 0xB) := by decide
theorem test_decode_ldI : decode 0b1010001000001110 = .instr (.ldI 0x20E) := by decide
theorem test_decode_jpV0 : decode 0b1011000100100011 = .instr (.jpV0 0x123) := by decide
theorem test_decode_rnd : decode 0b1100010111111110 = .instr (.rnd 5 0xFE) := by decide
theorem test_decode_drw : decode 0b1101000100101111 = .instr (.drw 1 2 0xF) := by decide
theorem test_decode_skp : decode 0b1110001110011110 = .instr (.skp 3) := by decide
theorem test_decode_sknp : decode 0b1110010110100001 = .instr (.sknp 5) := by decide
theorem test_decode_ldXDt : decode 0b1111000100000111 = .instr (.ldXDt 1) := by decide
theorem test_decode_ldXK : decode 0b1111111100001010 = .instr (.ldXK 0xF) := by decide
theorem test_decode_ldDtX : decode 0b1111000000010101 = .instr (.ldDtX 0) := by decide
theorem test_decode_ldStX : decode 0b1111001000011000 = .instr (.ldStX 2) := by decide
theorem test_decode_addIX : decode 0b1111010000011110 = .instr (.addIX 4) := by decide
theorem test_decode_ldFX : decode 0b1111011100101001 = .instr (.ldFX 7) := by decide
theorem test_decode_ldBX : decode 0b1111001000110011 = .instr (.ldBX 2) := by decide
theorem test_decode_stRegs : decode 0b1111000101010101 = .instr (.stRegs 1) := by decide
theorem test_decode_ldRegs : decode 0b1111101001100101 = .instr (.ldRegs 0xA) := by decide

/-- The UNKNOWN words of 95_test_vectors.md section 2.1. -/
theorem test_decode_unknown :
    decode 0x00E1 = .rejected .unknownFamily0 ∧ decode 0x01E0 = .rejected .unknownFamily0 ∧
    decode 0x0123 = .rejected .unknownFamily0 ∧ decode 0x5121 = .rejected .unknownFamily5 ∧
    decode 0x8008 = .rejected .unknownFamily8 ∧ decode 0x800F = .rejected .unknownFamily8 ∧
    decode 0x9AB3 = .rejected .unknownFamily9 ∧ decode 0xE09F = .rejected .unknownFamilyE ∧
    decode 0xF000 = .rejected .unknownFamilyF ∧ decode 0xF0FF = .rejected .unknownFamilyF := by decide
theorem test_decode_needs_two_bytes : decodeBytes [0x12] = .rejected .truncated := by decide
theorem test_decode_keeps_rest : decodeBytes [0x12, 0x34, 0x56] = .instr (.jp 0x234) [0x56] := by decide
theorem test_decode_table_word : decodeTableWord 16 0x8AB6 = some (.shr 0xA 0xB) ∧ decodeTableWord 16 0x800F = none := by
  decide

/-! ## Fetch (95_test_vectors.md section 2.1) -/

/-- T3: the second byte comes from address 0 and PC is not reduced. -/
theorem test_fetch_wraps : holds (fun t => t.readV 0 == 0x11 && t.pc == 0x1001) (step (placed 0xFFF 0x6011 State.reset)) = true := by
  decide
/-- T5: PC wraps modulo 2^16. -/
theorem test_pc_wraps : holds (fun t => t.readV 1 == 0x22 && t.pc == 0) (step (placed 0xFFFE 0x6122 State.reset)) = true := by
  decide
/-- T7, T8: an unknown opcode is recorded, and the record is overwritten. -/
theorem test_unknown_recorded :
    holds (fun t => t.unkOp == 0x5121 && t.unkPc == 0x302 && t.pc == 0x304)
      (step (placed 0x302 0x5121 { State.reset with unkValid := true, unkOp := 0x800F, unkPc := 0x300 })) = true := by decide
/-- T169: the step after power-on. -/
theorem test_first_step : holds (fun t => t.pc == 0x202 && t.unkValid && t.unkPc == 0x200) (step State.reset) = true := by decide

/-! ## Control transfer (section 2.2) -/

/-- T10. -/
theorem test_jp : steps 0x1ABC State.reset (fun t => t.pc == 0xABC) = true := by decide
/-- T13. -/
theorem test_call : steps 0x2400 { State.reset with sp := 15 } (fun t => t.stack[15] == 0x202 && t.sp == 16 && t.pc == 0x400) = true := by
  decide
/-- T14. -/
theorem test_call_overflow : steps 0x2400 { State.reset with sp := 16 }
    (fun t => t.mode == .halted && t.faultCode == .stackOverflow && t.faultPc == 0x200 && t.pc == 0x202) = true := by decide
/-- T16. -/
theorem test_ret : steps 0x00EE { State.reset with sp := 2, stack := (State.reset.stack.set 0 0x206).set 1 0x404 }
    (fun t => t.pc == 0x404 && t.sp == 1 && t.stack[1] == 0x404) = true := by decide
/-- T15. -/
theorem test_ret_underflow : steps 0x00EE State.reset
    (fun t => t.mode == .halted && t.faultCode == .stackUnderflow && t.faultPc == 0x200 && t.pc == 0x202) = true := by decide
/-- T21. -/
theorem test_seImm_equal : steps 0x3F01 (regs [(15, 1)]) (fun t => t.pc == 0x204) = true := by decide
/-- T20. -/
theorem test_seImm_different : steps 0x3341 (regs [(3, 0x42)]) (fun t => t.pc == 0x202) = true := by decide
/-- T22. -/
theorem test_sneImm_different : steps 0x4341 (regs [(3, 0x42)]) (fun t => t.pc == 0x204) = true := by decide
/-- T23. -/
theorem test_sneImm_equal : steps 0x4342 (regs [(3, 0x42)]) (fun t => t.pc == 0x202) = true := by decide
/-- T24. -/
theorem test_seReg_different : steps 0x5120 (regs [(1, 1), (2, 2)]) (fun t => t.pc == 0x202) = true := by decide
/-- T25. -/
theorem test_seReg_same : steps 0x5550 (regs [(5, 9)]) (fun t => t.pc == 0x204) = true := by decide
/-- T26. -/
theorem test_sneReg_different : steps 0x9120 (regs [(1, 7), (2, 8)]) (fun t => t.pc == 0x204) = true := by decide
/-- T27. -/
theorem test_sneReg_same : steps 0x9550 (regs [(5, 9)]) (fun t => t.pc == 0x202) = true := by decide
/-- T29: the target is not reduced to 12 bits. -/
theorem test_jpV0_large : steps 0xBFFF (regs [(0, 0xFF)]) (fun t => t.pc == 0x10FE) = true := by decide
/-- T30: V0 is added, whatever op[11:8]. -/
theorem test_jpV0_uses_v0 : steps 0xB5FE (regs [(0, 2), (5, 0x99)]) (fun t => t.pc == 0x600) = true := by decide

/-! ## ALU (section 2.3) -/

/-- T40. -/
theorem test_ldImm : steps 0x6FAB (regs [(15, 0x55)]) (fun t => t.readV 15 == 0xAB) = true := by decide
/-- T41: no carry flag. -/
theorem test_addImm : steps 0x7101 (regs [(1, 0xFF), (15, 0x55)]) (fun t => t.readV 1 == 0 && t.readV 15 == 0x55) = true := by
  decide
/-- T43. -/
theorem test_mov : steps 0x8120 (regs [(2, 0x99), (15, 0x55)]) (fun t => t.readV 1 == 0x99 && t.readV 15 == 0x55) = true := by
  decide
/-- T44. -/
theorem test_or : steps 0x8121 (regs [(1, 0x0F), (2, 0xF0), (15, 0x55)]) (fun t => t.readV 1 == 0xFF && t.readV 15 == 0x55) = true := by
  decide
/-- T45. -/
theorem test_and : steps 0x8122 (regs [(1, 0x3C), (2, 0x0F), (15, 0x55)]) (fun t => t.readV 1 == 0x0C && t.readV 15 == 0x55) = true := by
  decide
/-- T46. -/
theorem test_xor : steps 0x8123 (regs [(1, 0xFF), (2, 0x0F), (15, 0x55)]) (fun t => t.readV 1 == 0xF0 && t.readV 15 == 0x55) = true := by
  decide
/-- T49. -/
theorem test_add_carry : steps 0x8124 (regs [(1, 0x80), (2, 0x80)]) (fun t => t.readV 1 == 0 && t.readV 15 == 1) = true := by
  decide
/-- T51: with X = 15 the sum is lost to the flag. -/
theorem test_add_into_vf : steps 0x8F24 (regs [(15, 0x10), (2, 0x20)]) (fun t => t.readV 15 == 0) = true := by decide
/-- T54. -/
theorem test_sub_borrow : steps 0x8125 (regs [(1, 0), (2, 1)]) (fun t => t.readV 1 == 0xFF && t.readV 15 == 0) = true := by
  decide
/-- T56. -/
theorem test_sub_same : steps 0x8115 (regs [(1, 0x37)]) (fun t => t.readV 1 == 0 && t.readV 15 == 1) = true := by decide
/-- T61: VY is shifted, not VX. -/
theorem test_shr_source : steps 0x8126 (regs [(1, 4), (2, 0x10)]) (fun t => t.readV 1 == 8 && t.readV 15 == 0) = true := by
  decide
/-- T63: Y = 15 reads the old VF. -/
theorem test_shr_reads_vf : steps 0x81F6 (regs [(15, 0x81)]) (fun t => t.readV 1 == 0x40 && t.readV 15 == 1) = true := by decide
/-- T65. -/
theorem test_subn : steps 0x8127 (regs [(1, 3), (2, 0x10)]) (fun t => t.readV 1 == 0x0D && t.readV 15 == 1) = true := by decide
/-- T66. -/
theorem test_subn_borrow : steps 0x8127 (regs [(1, 1), (2, 0)]) (fun t => t.readV 1 == 0xFF && t.readV 15 == 0) = true := by
  decide
/-- T69. -/
theorem test_shl : steps 0x812E (regs [(2, 0x81)]) (fun t => t.readV 1 == 2 && t.readV 15 == 1) = true := by decide
/-- T72. -/
theorem test_shl_into_vf : steps 0x8F2E (regs [(2, 0x40)]) (fun t => t.readV 15 == 0) = true := by decide
/-- T74 and T76, the draw of CXNN given: V3 takes the draw masked by NN. -/
theorem test_rnd_masks : (State.reset.writeDraw 0xB7 3 0x0F).readV 3 = 0x07 ∧ (State.reset.writeDraw 0x5A 3 0xFF).readV 3 = 0x5A := by
  decide

/-! ## Index register and memory (section 2.4) -/

/-- T80. -/
theorem test_ldI : steps 0xAFFF State.reset (fun t => t.i == 0xFFF) = true := by decide
/-- T83. -/
theorem test_addIX_wraps : steps 0xF01E { regs [(0, 1)] with i := 0xFFFF } (fun t => t.i == 0) = true := by decide
/-- T84: no flag. -/
theorem test_addIX_no_flag : steps 0xF11E { regs [(1, 0xFF), (15, 0x77)] with i := 0xFFF }
    (fun t => t.i == 0x10FE && t.readV 15 == 0x77) = true := by decide
/-- T86: the low nibble. -/
theorem test_ldFX : steps 0xF029 (regs [(0, 0x1A)]) (fun t => t.i == 0x082) = true := by decide
/-- T89. -/
theorem test_ldBX : steps 0xF233 { regs [(2, 0x9C)] with i := 0x300 }
    (fun t => Memory.readBytes t.mem 0x300 3 == [1, 5, 6] && t.i == 0x300) = true := by decide
/-- T93: each address is decoded on its own. -/
theorem test_ldBX_wraps : steps 0xF033 { regs [(0, 123)] with i := 0xFFE }
    (fun t => Memory.read t.mem 0xFFE == 1 && Memory.read t.mem 0xFFF == 2 && Memory.read t.mem 0 == 3) = true := by decide
/-- T94. -/
theorem test_stRegs : steps 0xF255 { regs [(0, 0x11), (1, 0x22), (2, 0x33), (3, 0x44)] with i := 0x400 }
    (fun t => Memory.readBytes t.mem 0x400 4 == [0x11, 0x22, 0x33, 0] && t.i == 0x400) = true := by decide
/-- T97. -/
theorem test_stRegs_wraps : steps 0xF155 { regs [(0, 1), (1, 2)] with i := 0xFFF }
    (fun t => Memory.read t.mem 0xFFF == 1 && Memory.read t.mem 0 == 2) = true := by decide
/-- T98. -/
theorem test_ldRegs : steps 0xF165 { regs [(2, 0x99)] with i := 0x400, mem := [(0x400, 0x11), (0x401, 0x22), (0x402, 0x33)] }
    (fun t => t.readV 0 == 0x11 && t.readV 1 == 0x22 && t.readV 2 == 0x99 && t.i == 0x400) = true := by decide
/-- T101: glyph 0 of the font. -/
theorem test_ldRegs_font : steps 0xF465 { State.reset with i := 0x50 }
    (fun t => t.readV 0 == 0xF0 && t.readV 1 == 0x90 && t.readV 4 == 0xF0) = true := by decide

/-! ## Display (section 2.5) -/

/-- T110. -/
theorem test_cls : steps 0x00E0 { State.reset with fb := Display.invert State.reset.fb 5 5 } (fun t => lit t == [] && t.dirty) = true := by
  decide +kernel
/-- T114: the row wraps modulo 32. -/
theorem test_drw_wraps : steps 0xD012 { regs [(0, 0), (1, 0x1F)] with i := 0x300, mem := [(0x300, 0x80), (0x301, 0x80)] }
    (fun t => lit t == [(0, 0), (0, 31)] && t.readV 15 == 0 && t.dirty) = true := by decide +kernel
/-- T117: collision. -/
theorem test_drw_collides :
    steps 0xD011 { State.reset with i := 0x300, mem := [(0x300, 0xC0)], fb := Display.invert State.reset.fb 0 0 }
      (fun t => lit t == [(1, 0)] && t.readV 15 == 1) = true := by decide +kernel

/-! ## Keypad and timers (section 2.6) -/

/-- T134: the low nibble names the key. -/
theorem test_skp_pressed : steps 0xE59E { regs [(5, 0x14)] with keys := 0x0010 } (fun t => t.pc == 0x204) = true := by decide
/-- T131. -/
theorem test_skp_released : steps 0xE59E (regs [(5, 4)]) (fun t => t.pc == 0x202) = true := by decide
/-- T132. -/
theorem test_sknp_released : steps 0xE5A1 (regs [(5, 4)]) (fun t => t.pc == 0x204) = true := by decide
/-- T133. -/
theorem test_sknp_pressed : steps 0xE5A1 { regs [(5, 4)] with keys := 0x0010 } (fun t => t.pc == 0x202) = true := by decide
/-- T136. -/
theorem test_ldXK : steps 0xF30A (regs [(3, 0x55)])
    (fun t => t.mode == .waitKey && t.waitX == 3 && t.pc == 0x200 && t.readV 3 == 0x55) = true := by decide
/-- T138, T139. -/
theorem test_ldXK_resumes : holds (fun t => t.readV 3 == 7 && !t.kevValid && t.pc == 0x202 && t.mode == .run)
    (step (keyPress 7 waiting)) = true := by decide
/-- T145. -/
theorem test_ldXDt : steps 0xF107 { State.reset with dt := 0x3C } (fun t => t.readV 1 == 0x3C && t.dt == 0x3C) = true := by decide
/-- T146. -/
theorem test_ldDtX : steps 0xF015 (regs [(0, 5)]) (fun t => t.dt == 5) = true := by decide
/-- T149. -/
theorem test_ldStX : steps 0xF218 (regs [(2, 0x10)]) (fun t => t.st == 0x10 && t.soundOn) = true := by decide
/-- T150. -/
theorem test_ldStX_zero : steps 0xF218 { State.reset with st := 0x10 } (fun t => t.st == 0 && !t.soundOn) = true := by decide

/-! ## Host transactions (section 2.7) -/

/-- T148, T152. -/
theorem test_tick : (tick { State.reset with st := 2 }).st = 1 ∧ (tick { State.reset with st := 2 }).dt = 0 := by decide
/-- T140, T141. -/
theorem test_keyPress : (keyPress 1 State.reset).kevValid = false ∧ (keyPress 9 (keyPress 2 waiting)).kevKey = 2 := by decide
/-- T162. -/
theorem test_load : (load [0x12, 0x00] { halted with keys := 3 }).1.mem = [(0x200, 0x12)] ∧
    (load [0x12, 0x00] { halted with keys := 3 }).1.keys = 3 := by decide +kernel
/-- T165. -/
theorem test_load_too_large : load (List.replicate 3585 0) waiting = (waiting, .imageTooLarge) :=
  loadWith_tooLarge _ _ (by rw [List.length_replicate]; decide)
/-- STATE and FAULT_CODE as the host reads them (10_state.md R36, R38). -/
theorem test_outputs : halted.outputs.state = 2 ∧ halted.outputs.faultCode = 1 ∧ waiting.outputs.state = 1 ∧ waiting.outputs.faultCode = 0 ∧
    { halted with faultCode := .stackOverflow }.outputs.faultCode = 2 ∧ State.reset.outputs.state = 0 := by decide

/-! ## Witnesses: states and operands that meet the hypotheses of each statement -/

/-- A memory in canonical form with entries at both ends, a font byte overwritten by 0 among them. -/
def someMemory : Memory := [(0, 0x5E), (0x50, 0), (0x400, 0x11), (0xFFF, 0x80)]

theorem witness_memory_wf : Memory.wf someMemory = true := by decide

theorem witness_DecodingInvertsEncoding :
    Instr.wellFormed (.drw 0xF 0 0xF) = true ∧ Instr.wellFormed (.call 0xFFF) = true := by decide
theorem witness_EncodingInvertsDecoding : decode 0xDF0F = .instr (.drw 0xF 0 0xF) := by decide
theorem witness_DecodingFollowsOpcodeMap :
    (⟨0x800E, 0xF00F⟩ : OpcodeRow) ∈ opcodeMap ∧ OpcodeRow.selectedBy ⟨0x800E, 0xF00F⟩ 0x8FFE = true ∧
    decode 0x8FFE = .instr (.shl 0xF 0xF) := by decide
theorem witness_StepRunsDecodedInstruction :
    (placed 0xFFF 0x6011 State.reset).mode = .run ∧
    decode (wordOfBytes (Memory.read (placed 0xFFF 0x6011 State.reset).mem (placed 0xFFF 0x6011 State.reset).pc.toNat)
      (Memory.read (placed 0xFFF 0x6011 State.reset).mem ((placed 0xFFF 0x6011 State.reset).pc.toNat + 1))) =
        .instr (.ldImm 0 0x11) ∧
    (placed 0xFFF 0x800F State.reset).mode = .run ∧
    decode (wordOfBytes (Memory.read (placed 0xFFF 0x800F State.reset).mem (placed 0xFFF 0x800F State.reset).pc.toNat)
      (Memory.read (placed 0xFFF 0x800F State.reset).mem ((placed 0xFFF 0x800F State.reset).pc.toNat + 1))) =
        .rejected .unknownFamily8 := by decide
theorem witness_UnknownOpcodeIsRecordedNoOp :
    (placed 0x300 0x800F State.reset).mode = .run ∧
    ∀ row ∈ opcodeMap, row.selectedBy (placed 0x300 0x800F State.reset).fetchWord = false := by decide
theorem witness_WaitingStepCompletesOnlyOnEvent :
    (keyPress 0xF waiting).mode = .waitKey ∧ (keyPress 0xF waiting).kevValid = true ∧
    waiting.mode = .waitKey ∧ waiting.kevValid = false := by decide
theorem witness_HaltedCoreLeftOnlyByLoad :
    halted.mode = .halted ∧ transact (.load [0x12]) halted = .next (load [0x12] halted).1 ∧
    (load [0x12] halted).1.mode ≠ .halted ∧ (List.replicate 3584 (0 : Byte)).length ≤ 3584 :=
  ⟨rfl, rfl, by rw [load, loadWith_ok _ _ (by decide)]; decide, List.length_replicate.le⟩
/-- One transaction for each row of the transition table: Load accepted and rejected. -/
theorem witness_StateChangesByTransitionTable_load :
    transact (.load []) halted = .next (load [] halted).1 ∧ ([] : List Byte).length ≤ 3584 ∧
    transact (.load (List.replicate 3585 0)) halted = .next (load (List.replicate 3585 0) halted).1 ∧
    ¬ (List.replicate 3585 (0 : Byte)).length ≤ 3584 := ⟨rfl, by decide, rfl, by rw [List.length_replicate]; decide⟩
/-- Steps in RUN into WAIT_KEY and into HALTED. -/
theorem witness_StateChangesByTransitionTable_run :
    holds (fun t => t.mode == .waitKey) (transact .step (placed 0x200 0xF30A State.reset)) = true ∧
    holds (fun t => t.mode == .halted) (transact .step (placed 0x200 0x00EE State.reset)) = true ∧
    holds (fun t => t.mode == .halted) (transact .step (placed 0x200 0x2400 { State.reset with sp := 16 })) = true ∧
    holds (fun t => t.mode == .run) (transact .step (placed 0x200 0x6011 State.reset)) = true := by decide
/-- Steps in WAIT_KEY and HALTED, and the other transactions. -/
theorem witness_StateChangesByTransitionTable_other :
    holds (fun t => t.mode == .run) (transact .step (keyPress 7 waiting)) = true ∧
    transact .step waiting = .next waiting ∧ transact .step halted = .next halted ∧
    holds (fun t => t.mode == .waitKey) (transact .tick waiting) = true ∧
    holds (fun t => t.mode == .halted) (transact (.setKeys 0xFFFF) halted) = true ∧
    holds (fun t => t.mode == .waitKey) (transact (.keyPress 7) waiting) = true ∧
    holds (fun t => t.mode == .halted) (transact .ackDisplay halted) = true := by
  refine ⟨by decide, rfl, rfl, by decide, by decide, by decide, by decide⟩
theorem witness_StepLeavesKeysAndTimers :
    steps 0xF015 (regs [(0, 5)]) (fun t => t.dt != 0) = true ∧ steps 0xF018 (regs [(0, 5)]) (fun t => t.st != 0) = true := by decide
theorem witness_StepDependsOnDrawOnlyForRnd :
    (placed 0x200 0x6011 State.reset).mode = .run ∧
    decode (placed 0x200 0x6011 State.reset).fetchWord = .instr (.ldImm 0 0x11) ∧
    steps 0x6011 State.reset (fun _ => true) = true ∧
    decode (placed 0x200 0xC30F State.reset).fetchWord = .instr (.rnd 3 0x0F) := by decide
theorem witness_OnlyNamedRegistersWritten :
    holds (fun _ => true) (exec (.add 1 2) (regs [(1, 3)])) = true ∧ (3 : Reg) ∉ writtenRegs (.add 1 2) ∧
    (4 : Reg) ∉ writtenRegs (.ldRegs 3) ∧ (3 : Reg) ∈ writtenRegs (.ldRegs 3) := by decide
/-- For each clause, an instruction that changes the state the clause is about. -/
theorem witness_OnlyNamedInstructionsWriteState :
    holds (fun t => t.i != 0) (exec (.ldI 0x300) State.reset) = true ∧
    holds (fun t => t.mem != []) (exec (.stRegs 0) (regs [(0, 1)])) = true ∧
    holds (fun t => t.dirty) (exec .cls State.reset) = true ∧
    holds (fun t => t.stack != State.reset.stack && t.sp != 0) (exec (.call 0x400) { State.reset with pc := 0x202 }) = true ∧
    holds (fun t => t.dt != 0) (exec (.ldDtX 0) (regs [(0, 1)])) = true ∧
    holds (fun t => t.st != 0) (exec (.ldStX 0) (regs [(0, 1)])) = true ∧
    holds (fun t => t.mode != .run && t.faultCode != .none) (exec .ret State.reset) = true ∧
    holds (fun t => t.waitX != 0) (exec (.ldXK 3) State.reset) = true := by decide
theorem witness_UnknownRecordChangesOnlyByUnknownOrLoad :
    holds (fun t => t.unkValid && t.unkOp == 0x800F) (transact .step (placed 0x200 0x800F State.reset)) = true ∧
    transact (.load []) { State.reset with unkValid := true } = .next (load [] { State.reset with unkValid := true }).1 ∧
    transact (.load (List.replicate 3585 0)) waiting = .next (load (List.replicate 3585 0) waiting).1 :=
  ⟨by decide, rfl, rfl⟩
/-- The sums at the two sides of the carry's boundary, with a destination other than VF. -/
theorem witness_AddWritesSumThenCarry :
    (1 : Reg) ≠ 15 ∧ (0xFF : Byte).toNat + (0 : Byte).toNat = 255 ∧ (0xFF : Byte).toNat + (1 : Byte).toNat > 255 := by decide
/-- The operands at the two sides of the borrow's boundary, with a destination other than VF. -/
theorem witness_SubtractWritesDifferenceThenNotBorrow :
    (14 : Reg) ≠ 15 ∧ (7 : Byte).toNat ≥ (7 : Byte).toNat ∧ ¬ (6 : Byte).toNat ≥ (7 : Byte).toNat := by decide
theorem witness_ShiftsTakeVyAndShiftedOutBit : (0 : Reg) ≠ 15 := by decide
theorem witness_RndMasksAFreshDraw : (0x0F : Byte).getLsbD 7 = false ∧ (0 : Byte) = 0 := by decide
/-- SP below the depth and at the depth. -/
theorem witness_CallPushesReturnAddress :
    ({ State.reset with sp := 15 } : State).sp.val < Config.stackDepth ∧
    ({ State.reset with sp := 16 } : State).sp.val = Config.stackDepth := by decide
theorem witness_ReturnPopsReturnAddress :
    0 < ({ State.reset with sp := 1 } : State).sp.val ∧ (0 : Fin 16).val + 1 = ({ State.reset with sp := 1 } : State).sp.val ∧
    (15 : Fin 16).val + 1 = ({ State.reset with sp := 16 } : State).sp.val ∧ State.reset.sp.val = 0 := by decide
theorem witness_StackFaultIsPrecise :
    (placed 0x200 0x00EE State.reset).mode = .run ∧ decode (placed 0x200 0x00EE State.reset).fetchWord = .instr .ret ∧
    (placed 0x200 0x00EE State.reset).sp.val = 0 ∧
    decode (placed 0x300 0x2400 { State.reset with sp := 16 }).fetchWord = .instr (.call 0x400) ∧
    (placed 0x300 0x2400 { State.reset with sp := 16 }).sp.val = Config.stackDepth := by decide
theorem witness_CallOnEveryDepthInRange :
    stackDepthInRange 12 = true ∧ stackDepthInRange 16 = true ∧ ({ State.reset with sp := 11 } : State).sp.val < 12 ∧
    ({ State.reset with sp := 12 } : State).sp.val = 12 ∧ ({ State.reset with sp := 16 } : State).sp.val = 16 := by decide
theorem witness_CallThenReturnResumesAfterCall :
    ({ State.reset with pc := 0x202 } : State).sp.val < Config.stackDepth ∧ holds (fun t => t.sp == 1 && t.stack[0] == 0x202) (exec (.call 0x400) { State.reset with pc := 0x202 }) = true := by decide
/-- The digits are stored across the end of memory. -/
theorem witness_DecimalDigitsStored : Memory.wf { State.reset with mem := someMemory, i := 0xFFE }.mem = true := by decide
theorem witness_RegistersStored :
    Memory.wf { State.reset with mem := someMemory, i := 0xFFF }.mem = true ∧ (0 : Reg) ≤ 15 ∧ (15 : Reg) ≤ 15 := by decide
theorem witness_StoredRegistersLoadBack :
    Memory.wf { State.reset with mem := someMemory, i := 0xFFF }.mem = true ∧
    holds (fun t => t.mem != someMemory) (exec (.stRegs 1) { regs [(1, 9)] with mem := someMemory, i := 0xFFF }) = true ∧
    (1 : Reg) ≤ 1 := by decide
theorem witness_PlacedInstructionRunsNext : Memory.wf { halted with mem := someMemory, pc := 0xFFF }.mem = true := by decide
theorem witness_RegistersLoaded : (3 : Reg) ≤ 3 ∧ (3 : Reg) < 4 := by decide
/-- The stored bytes are fetched across the end of memory. -/
theorem witness_FetchSeesStoredCode :
    Memory.wf { State.reset with i := 0xFFF }.mem = true ∧
    holds (fun t => t.mem == [(0, 2), (0xFFF, 1)]) (exec (.stRegs 1) { regs [(0, 1), (1, 2)] with i := 0xFFF }) = true ∧
    (1 : Reg).val = (0 : Reg).val + 1 ∧ (1 : Reg) ≤ 1 ∧
    decodeAddress (0x1FFF : Word).toNat = decodeAddress (({ State.reset with i := 0xFFF } : State).indirect (0 : Reg).val) := by
  decide
theorem witness_EqualMemoriesAreEqualData :
    Memory.wf someMemory = true ∧ ∀ a, Memory.read someMemory a = Memory.read someMemory a := ⟨by decide, fun _ => rfl⟩
/-- A sprite of one row over a lit pixel, beside an unlit one, and a pixel under no bit. -/
theorem witness_DrwXorsSpriteAndReportsCollision :
    SpriteCovers [(0x300, 0xC0)] 0x300 1 63 31 63 31 ∧ SpriteCovers [(0x300, 0xC0)] 0x300 1 63 31 0 31 ∧
    Display.pixel (Display.invert State.reset.fb 63 31) 63 31 = true ∧
    Display.pixel (Display.invert State.reset.fb 63 31) 0 31 = false ∧
    ¬ SpriteCovers [(0x300, 0xC0)] 0x300 1 63 31 1 31 := by
  refine ⟨⟨0, 0, by decide, by decide, by decide, by decide, by decide⟩,
    ⟨0, 1, by decide, by decide, by decide, by decide, by decide⟩, by decide, by decide, ?_⟩
  rintro ⟨r, c, hr, hc, hb, hx, -⟩
  have h : c = 2 := by simp at hx; omega
  have h' : r = 0 := by omega
  subst h h'
  exact absurd hb (by decide)
/-- A sprite partly over lit pixels, so that the second draw reports a collision. -/
theorem witness_DrawingTwiceRestoresDisplay :
    (0 : Reg) ≠ 15 ∧ (14 : Reg) ≠ 15 ∧ SpriteCovers [(0x300, 0xC0)] 0x300 1 63 31 0 31 ∧
    Display.pixel State.reset.fb 0 31 = false :=
  ⟨by decide, by decide, ⟨0, 1, by decide, by decide, by decide, by decide, by decide⟩, by decide⟩
theorem witness_GlyphAddressReadsFont :
    fontInRange Config.font = true ∧ imageInRange [0x12, 0x00] = true ∧
    ({ regs [(0, 0xFF)] with mem := (loadWith Config.font [0x12, 0x00] State.reset).1.mem } : State).mem =
      (loadWith Config.font [0x12, 0x00] State.reset).1.mem := ⟨by decide, by decide, rfl⟩
theorem witness_KeyWaitEnters :
    (placed 0x200 0xF30A State.reset).mode = .run ∧ decode (placed 0x200 0xF30A State.reset).fetchWord = .instr (.ldXK 3) := by
  decide
theorem witness_KeyWaitStoresFirstEvent :
    (placed 0xFFF 0xFF0A State.reset).mode = .run ∧ decode (placed 0xFFF 0xFF0A State.reset).fetchWord = .instr (.ldXK 15) := by
  decide
theorem witness_HostInputsChangeOnlyTheirState :
    waiting.mode = .waitKey ∧ waiting.kevValid = false ∧ State.reset.mode ≠ .waitKey ∧ (keyPress 7 waiting).kevValid = true := by
  decide
theorem witness_SoundOnChangesOnlyWithSoundTimer :
    holds (fun t => !t.soundOn) (transact .tick { State.reset with st := 1 }) = true ∧
    (load [] { State.reset with st := 1 }).1.soundOn = false ∧ ({ State.reset with st := 1 } : State).soundOn = true ∧
    steps 0xF018 (regs [(0, 5)]) (fun t => t.soundOn) = true :=
  ⟨by decide, by rw [load, loadWith_ok _ _ (by decide)]; rfl, by decide, by decide⟩
theorem witness_LoadReinitialisesEverything :
    fontInRange Config.font = true ∧ (List.replicate 3584 (0x12 : Byte)).length ≤ 3584 ∧
    3584 < (List.replicate 3585 (0x12 : Byte)).length := ⟨by decide, List.length_replicate.le, by rw [List.length_replicate]; decide⟩
theorem witness_LongImageIsRejected : 3584 < (List.replicate 3585 (0x12 : Byte)).length := by
  rw [List.length_replicate]
  decide
theorem witness_ResetStateValues : ¬ (0x050 ≤ 0x04F ∧ 0x04F < 0x0A0) ∧ ¬ (0x050 ≤ 0x0A0 ∧ 0x0A0 < 0x0A0) ∧ 79 < 80 := by decide
/-- A state other than reset that meets the invariant, and steps. -/
theorem witness_StepKeepsInvariant :
    waiting.Inv ∧ step waiting = .next waiting ∧ transact (.keyPress 7) waiting = .next (keyPress 7 waiting) := by
  refine ⟨⟨by decide, by decide, by decide, fun _ => by decide, by decide, by decide, by decide, by decide, by decide,
    (fun h => absurd h (by decide)), by decide⟩, rfl, rfl⟩
theorem witness_ReachableStatesMeetInvariant : Reachable (load [0x12, 0x00] State.reset).1 :=
  .transaction .powerOn (.load [0x12, 0x00]) rfl
theorem witness_StaleStackEntriesUnobservable :
    Instr.jp 0x300 ≠ .ret ∧ (∀ nnn, Instr.jp 0x300 ≠ .call nnn) ∧
    AgreeUpToStaleStack { State.reset with sp := 1 } { State.reset with sp := 1, stack := State.reset.stack.set 1 0x404 } ∧
    holds (fun _ => true) (step { State.reset with sp := 1 }) = true := by
  exact ⟨by decide, by simp, ⟨rfl, by decide⟩, by decide⟩
theorem witness_HostRecordsUnobservable :
    AgreeUpToHostRecords State.reset { State.reset with dirty := true, unkOp := 0x800F } ∧
    holds (fun _ => true) (step State.reset) = true := ⟨rfl, by decide⟩
theorem witness_StepFixedPoints :
    (placed 0x20A 0x120A State.reset).mode = .run ∧ decode (placed 0x20A 0x120A State.reset).fetchWord = .instr (.jp 0x20A) ∧
    (placed 0x20A 0x120A State.reset).pc.toNat = (0x20A : Addr12).toNat ∧ waiting.mode = .waitKey ∧ waiting.kevValid = false ∧
    halted.mode = .halted := by decide

end Sys2Proof.Tests
end

section
/-! PROOFS of the family 10_state: what the host reads of a state (R45), and which Steps can observe the stack (R29). -/

namespace Sys2Proof.Machine

/-! ## The host's numbers -/

/-- The host tells the three values of STATE apart. -/
theorem Mode.code_inj {m m' : Mode} : m.code = m'.code ↔ m = m' := by
  cases m <;> cases m' <;> decide

/-- The host tells the three values of FAULT_CODE apart. -/
theorem FaultCode.code_inj {c c' : FaultCode} : c.code = c'.code ↔ c = c' := by
  cases c <;> cases c' <;> decide

theorem State.soundOn_iff (s : State) : s.soundOn = true ↔ s.st ≠ 0 := by
  simp [State.soundOn]

/-- The status of Load is that of the image's length alone (70_reset_and_hazards.md R290, R291). -/
theorem load_status (image : List Byte) (s : State) :
    (load image s).2 = if image.length ≤ Config.maxImage then .ok else .imageTooLarge := by
  rw [load]
  split
  case isTrue h => rw [loadWith_ok _ _ h]
  case isFalse h => rw [loadWith_tooLarge _ _ (not_le.mp h)]

/-- Settles O59: the numbers of STATE and FAULT_CODE are injective, and the other outputs are fields of the state. -/
theorem hostReadsOutputs : Obligations.HostReadsOutputs := fun s =>
  ⟨rfl, rfl, s.soundOn_iff,
    Mode.code_inj (m' := .run), Mode.code_inj (m' := .waitKey), Mode.code_inj (m' := .halted),
    FaultCode.code_inj (c' := .none), FaultCode.code_inj (c' := .stackUnderflow), FaultCode.code_inj (c' := .stackOverflow),
    rfl, rfl, rfl, rfl, fun image => load_status image s⟩

/-! ## Instructions that do not reach the stack (10_state.md R29) -/

/-- `s` with another stack and another SP. -/
def State.withStack (s : State) (stack : Vector Word 16) (sp : Fin 17) : State := { s with stack := stack, sp := sp }

/-- A state that the replacement does not change holds that stack and that SP. -/
theorem State.stack_sp_of_eq_withStack {s : State} {stack : Vector Word 16} {sp : Fin 17} (h : s = s.withStack stack sp) :
    s.stack = stack ∧ s.sp = sp := by
  rw [h]
  exact ⟨rfl, rfl⟩

theorem State.skipIf_withStack (s : State) (c : Bool) (stack : Vector Word 16) (sp : Fin 17) :
    (s.withStack stack sp).skipIf c = (s.skipIf c).withStack stack sp := by
  cases c <;> rfl

theorem State.resumeWait_withStack (s : State) (stack : Vector Word 16) (sp : Fin 17) :
    (s.withStack stack sp).resumeWait = s.resumeWait.withStack stack sp := by
  cases hv : s.kevValid with
  | false => rw [State.resumeWait_empty hv, State.resumeWait_empty (s := s.withStack stack sp) hv]
  | true => rw [State.resumeWait_event hv, State.resumeWait_event (s := s.withStack stack sp) hv]; rfl

/-- Every instruction but 00EE and 2NNN commutes with the replacement of the stack and SP. -/
theorem exec_withStack {i : Instr} {s t : State} (hret : i ≠ .ret) (hcall : ∀ nnn, i ≠ .call nnn) (h : exec i s = .next t)
    (stack : Vector Word 16) (sp : Fin 17) : exec i (s.withStack stack sp) = .next (t.withStack stack sp) := by
  cases i with
  | ret => exact absurd rfl hret
  | call nnn => exact absurd rfl (hcall nnn)
  | seImm | sneImm | seReg | sneReg | skp | sknp =>
    cases h
    exact congrArg Host.Outcome.next (s.skipIf_withStack _ stack sp)
  | _ => cases h; rfl

/-- Every instruction but 00EE and 2NNN leaves the stack and SP. -/
theorem exec_keeps_stack {i : Instr} {s t : State} (hret : i ≠ .ret) (hcall : ∀ nnn, i ≠ .call nnn)
    (h : exec i s = .next t) : t.stack = s.stack ∧ t.sp = s.sp := by
  have hown : exec i s = .next (t.withStack s.stack s.sp) := exec_withStack hret hcall h s.stack s.sp
  rw [h] at hown
  injection hown with ht
  exact State.stack_sp_of_eq_withStack ht

/-! ## States that differ only in stale stack entries (10_state.md R29) -/

/-- The second state is the first with another stack that is the same below SP. -/
theorem AgreeUpToStaleStack.exists_withStack {s t : State} (h : AgreeUpToStaleStack s t) :
    ∃ stack, t = s.withStack stack s.sp ∧ ∀ j : Fin 16, j.val < s.sp.val → stack[j] = s.stack[j] :=
  ⟨t.stack, h.1, h.2⟩

/-- A state that kept SP and the stack of `s` agrees with itself under a stack that is the same below SP. -/
theorem AgreeUpToStaleStack.of_kept {s s' : State} {stack : Vector Word 16} (hstack : s'.stack = s.stack)
    (hsp : s'.sp = s.sp) (hbelow : ∀ j : Fin 16, j.val < s.sp.val → stack[j] = s.stack[j]) :
    AgreeUpToStaleStack s' (s'.withStack stack s.sp) := by
  rw [← hsp, ← hstack] at hbelow
  rw [← hsp]
  exact ⟨rfl, hbelow⟩

theorem AgreeUpToStaleStack.fetchWord_eq {s t : State} (h : AgreeUpToStaleStack s t) : t.fetchWord = s.fetchWord := by
  obtain ⟨stack, rfl, -⟩ := h.exists_withStack
  rfl

theorem AgreeUpToStaleStack.mode_eq {s t : State} (h : AgreeUpToStaleStack s t) : t.mode = s.mode := by
  obtain ⟨stack, rfl, -⟩ := h.exists_withStack
  rfl

theorem AgreeUpToStaleStack.advancePc {s t : State} (h : AgreeUpToStaleStack s t) :
    AgreeUpToStaleStack s.advancePc t.advancePc := by
  obtain ⟨stack, rfl, hbelow⟩ := h.exists_withStack
  exact ⟨rfl, hbelow⟩

theorem AgreeUpToStaleStack.recordUnknown {s t : State} (h : AgreeUpToStaleStack s t) (op : Word) :
    AgreeUpToStaleStack (s.recordUnknown op) (t.recordUnknown op) := by
  obtain ⟨stack, rfl, hbelow⟩ := h.exists_withStack
  exact ⟨rfl, hbelow⟩

theorem AgreeUpToStaleStack.raiseFault {s t : State} (h : AgreeUpToStaleStack s t) (code : FaultCode) :
    AgreeUpToStaleStack (s.raiseFault code) (t.raiseFault code) := by
  obtain ⟨stack, rfl, hbelow⟩ := h.exists_withStack
  exact ⟨rfl, hbelow⟩

theorem AgreeUpToStaleStack.resumeWait {s t : State} (h : AgreeUpToStaleStack s t) :
    AgreeUpToStaleStack s.resumeWait t.resumeWait := by
  obtain ⟨stack, rfl, hbelow⟩ := h.exists_withStack
  obtain ⟨hstack, hsp⟩ := State.stack_sp_of_eq_withStack (s.resumeWait_withStack s.stack s.sp)
  rw [State.resumeWait_withStack]
  exact .of_kept hstack hsp hbelow

/-- 00EE reads the entry at SP - 1, which is not stale. -/
theorem AgreeUpToStaleStack.popPc {s t : State} (h : AgreeUpToStaleStack s t) : AgreeUpToStaleStack s.popPc t.popPc := by
  obtain ⟨stack, rfl, hbelow⟩ := h.exists_withStack
  rcases Nat.eq_zero_or_pos s.sp.val with h0 | h0
  · rw [State.popPc_underflow h0, State.popPc_underflow (s := s.withStack stack s.sp) h0]
    exact h.raiseFault _
  · have htop : stack[s.sp.val - 1] = s.stack[s.sp.val - 1] := hbelow ⟨s.sp.val - 1, by omega⟩ (by simp; omega)
    rw [State.popPc_pop h0, State.popPc_pop (s := s.withStack stack s.sp) h0, ← htop]
    refine ⟨rfl, fun j hj => hbelow j ?_⟩
    simp at hj; omega

/-- 2NNN makes the entry at SP valid by writing it. -/
theorem AgreeUpToStaleStack.callWith {s t : State} (h : AgreeUpToStaleStack s t) {depth : Nat} (hd : depth ≤ 16)
    (target : Word) : AgreeUpToStaleStack (s.callWith depth target) (t.callWith depth target) := by
  obtain ⟨stack, rfl, hbelow⟩ := h.exists_withStack
  rcases Nat.lt_or_ge s.sp.val depth with hlt | hge
  · rw [State.callWith_push target hlt hd, State.callWith_push (s := s.withStack stack s.sp) target hlt hd]
    refine ⟨rfl, fun j hj => ?_⟩
    simp only [State.withStack, Fin.getElem_fin, Vector.getElem_set]
    split
    case isTrue => rfl
    case isFalse hne => exact hbelow j (by simp at hj; omega)
  · rw [State.callWith_overflow target hge, State.callWith_overflow (s := s.withStack stack s.sp) target hge]
    exact h.raiseFault _

/-- No instruction can observe a stale stack entry. -/
theorem AgreeUpToStaleStack.exec {s t s' : State} (h : AgreeUpToStaleStack s t) {i : Instr}
    (hs : Machine.exec i s = .next s') : ∃ t', Machine.exec i t = .next t' ∧ AgreeUpToStaleStack s' t' := by
  by_cases hret : i = .ret
  · subst hret; cases hs
    exact ⟨_, rfl, h.popPc⟩
  by_cases hcall : ∃ nnn, i = .call nnn
  · obtain ⟨nnn, rfl⟩ := hcall; cases hs
    exact ⟨_, rfl, h.callWith (by decide) _⟩
  have hcall' : ∀ nnn, i ≠ .call nnn := fun nnn hi => hcall ⟨nnn, hi⟩
  obtain ⟨hstack, hsp⟩ := exec_keeps_stack hret hcall' hs
  obtain ⟨stack, rfl, hbelow⟩ := h.exists_withStack
  exact ⟨_, exec_withStack hret hcall' hs stack s.sp, .of_kept hstack hsp hbelow⟩

/-- No Step can observe a stale stack entry. -/
theorem AgreeUpToStaleStack.step {s t s' : State} (h : AgreeUpToStaleStack s t) (hs : Machine.step s = .next s') :
    ∃ t', Machine.step t = .next t' ∧ AgreeUpToStaleStack s' t' := by
  obtain ⟨hm, i, hi, hexec⟩ | ⟨hm, ⟨why, hwhy⟩, rfl⟩ | ⟨hm, rfl⟩ | ⟨hm, rfl⟩ := step_cases hs
  · rw [step_of_run (h.mode_eq.trans hm), h.fetchWord_eq, executeWord_instr hi]
    exact h.advancePc.exec hexec
  · rw [step_of_run (h.mode_eq.trans hm), h.fetchWord_eq, executeWord_unknown hwhy]
    exact ⟨_, rfl, h.advancePc.recordUnknown _⟩
  · exact ⟨_, step_of_wait (h.mode_eq.trans hm), h.resumeWait⟩
  · exact ⟨_, step_of_halted (h.mode_eq.trans hm), h⟩

/-- Settles O55: instructions other than 2NNN and 00EE commute with any replacement of the stack, and these two
use no entry at SP or above before writing it. -/
theorem staleStackEntriesUnobservable : Obligations.StaleStackEntriesUnobservable :=
  ⟨fun _ _ _ hret hcall h => exec_withStack hret hcall h, fun _ _ _ => AgreeUpToStaleStack.step⟩

end Sys2Proof.Machine
end

section
/-! PROOFS of the family 30_encoding: the decoder and the opcode map (R99), and the no-op of an unknown word (R100). -/

namespace Sys2Proof

/-! ## A decoded word is the word of its instruction -/

variable {op : Word} {i : Instr}

theorem encodeA_of_family {c : Nibble} (hc : fieldC op = c) : encodeA c (fieldNNN op) = op := by
  rw [← hc, encodeA_fields]

theorem encodeXNN_of_fields {c : Nibble} {nn : Byte} (hc : fieldC op = c) (hnn : fieldNN op = nn) :
    encodeXNN c (fieldX op) nn = op := by
  rw [← hc, ← hnn, encodeXNN_fields]

theorem encodeXYN_of_fields {c n : Nibble} (hc : fieldC op = c) (hn : fieldN op = n) :
    encodeXYN c (fieldX op) (fieldY op) n = op := by
  rw [← hc, ← hn, encodeXYN_fields]

theorem encode_of_decodeFamily0 (h : decodeFamily0 op = .instr i) : encode i = op := by
  unfold decodeFamily0 at h
  split_ifs at h with hop hop <;> cases h <;> exact hop.symm

theorem encode_of_decodeFamily5 (hc : fieldC op = 0x5) (h : decodeFamily5 op = .instr i) : encode i = op := by
  unfold decodeFamily5 at h
  split_ifs at h with hn
  cases h
  exact encodeXYN_of_fields hc hn

theorem encode_of_decodeFamily8 (hc : fieldC op = 0x8) (h : decodeFamily8 op = .instr i) : encode i = op := by
  unfold decodeFamily8 at h
  split at h
  case h_10 => cases h
  all_goals
    next hn =>
      cases h
      exact encodeXYN_of_fields hc (BitVec.eq_of_toNat_eq hn)

theorem encode_of_decodeFamily9 (hc : fieldC op = 0x9) (h : decodeFamily9 op = .instr i) : encode i = op := by
  unfold decodeFamily9 at h
  split_ifs at h with hn
  cases h
  exact encodeXYN_of_fields hc hn

theorem encode_of_decodeFamilyE (hc : fieldC op = 0xE) (h : decodeFamilyE op = .instr i) : encode i = op := by
  unfold decodeFamilyE at h
  split_ifs at h with hnn hnn <;> cases h <;> exact encodeXNN_of_fields hc hnn

theorem encode_of_decodeFamilyF (hc : fieldC op = 0xF) (h : decodeFamilyF op = .instr i) : encode i = op := by
  unfold decodeFamilyF at h
  split_ifs at h with hnn hnn hnn hnn hnn hnn hnn hnn hnn <;> cases h <;> exact encodeXNN_of_fields hc hnn

/-- The word of the instruction a word decodes to is the word itself. -/
theorem encode_of_decode (h : decode op = .instr i) : encode i = op := by
  have hlt : (fieldC op).toNat < 16 := (fieldC op).isLt
  unfold decode at h
  split at h
  case h_1 => exact encode_of_decodeFamily0 h
  case h_6 hc => exact encode_of_decodeFamily5 (BitVec.eq_of_toNat_eq hc) h
  case h_9 hc => exact encode_of_decodeFamily8 (BitVec.eq_of_toNat_eq hc) h
  case h_10 hc => exact encode_of_decodeFamily9 (BitVec.eq_of_toNat_eq hc) h
  case h_15 hc => exact encode_of_decodeFamilyE (BitVec.eq_of_toNat_eq hc) h
  case h_16 =>
    have hc : (fieldC op).toNat = 0xF := by simp only [imp_false] at *; omega
    exact encode_of_decodeFamilyF (BitVec.eq_of_toNat_eq hc) h
  case h_2 hc | h_3 hc | h_11 hc | h_12 hc => cases h; exact encodeA_of_family (BitVec.eq_of_toNat_eq hc)
  case h_14 hc => cases h; exact encodeXYN_of_fields (BitVec.eq_of_toNat_eq hc) rfl
  all_goals
    next hc =>
      cases h
      exact encodeXNN_of_fields (BitVec.eq_of_toNat_eq hc) rfl

/-! ## The fields of a masked word -/

/-- A field that the mask covers is the field of the masked word. -/
theorem extractLsb'_of_and {start len : Nat} {m w : Word} (hm : m.extractLsb' start len = BitVec.allOnes len)
    (h : op &&& m = w) : op.extractLsb' start len = w.extractLsb' start len := by
  rw [← h, BitVec.extractLsb'_and, hm, BitVec.and_allOnes]

/-! ## The families that decode further -/

theorem decode_family5 (hc : fieldC op = 0x5) : decode op = decodeFamily5 op := by rw [decode, hc]; rfl

theorem decode_family8 (hc : fieldC op = 0x8) : decode op = decodeFamily8 op := by rw [decode, hc]; rfl

theorem decode_family9 (hc : fieldC op = 0x9) : decode op = decodeFamily9 op := by rw [decode, hc]; rfl

theorem decode_familyE (hc : fieldC op = 0xE) : decode op = decodeFamilyE op := by rw [decode, hc]; rfl

theorem decode_familyF (hc : fieldC op = 0xF) : decode op = decodeFamilyF op := by rw [decode, hc]; rfl

/-! ## A word that selects a row decodes to the row's instruction -/

/-- Every word that selects the row decodes to an instruction whose row it is. -/
def OpcodeRow.Decodes (row : OpcodeRow) : Prop :=
  ∀ op, row.selectedBy op = true → ∃ i, decode op = .instr i ∧ opcodeMap[i.rowNumber]? = some row

section
variable {w : Word}

/-- A row of mask FFFF is one word. -/
theorem decodes_of_word (h : ∃ i, decode w = .instr i ∧ opcodeMap[i.rowNumber]? = some ⟨w, 0xFFFF⟩) :
    OpcodeRow.Decodes ⟨w, 0xFFFF⟩ := by
  intro op hsel
  have hop : op = w := BitVec.and_allOnes.symm.trans (beq_iff_eq.1 hsel)
  rwa [hop]

/-- A row of mask F000 fixes the family. -/
theorem decodes_of_family
    (h : ∀ op, fieldC op = fieldC w → ∃ i, decode op = .instr i ∧ opcodeMap[i.rowNumber]? = some ⟨w, 0xF000⟩) :
    OpcodeRow.Decodes ⟨w, 0xF000⟩ := by
  intro op hsel
  have hmask : op &&& 0xF000#16 = w := beq_iff_eq.1 hsel
  exact h op (extractLsb'_of_and (by decide) hmask)

/-- A row of mask F00F fixes the family and N. -/
theorem decodes_of_familyN
    (h : ∀ op, fieldC op = fieldC w → fieldN op = fieldN w →
      ∃ i, decode op = .instr i ∧ opcodeMap[i.rowNumber]? = some ⟨w, 0xF00F⟩) :
    OpcodeRow.Decodes ⟨w, 0xF00F⟩ := by
  intro op hsel
  have hmask : op &&& 0xF00F#16 = w := beq_iff_eq.1 hsel
  exact h op (extractLsb'_of_and (by decide) hmask) (extractLsb'_of_and (by decide) hmask)

/-- A row of mask F0FF fixes the family and NN. -/
theorem decodes_of_familyNN
    (h : ∀ op, fieldC op = fieldC w → fieldNN op = fieldNN w →
      ∃ i, decode op = .instr i ∧ opcodeMap[i.rowNumber]? = some ⟨w, 0xF0FF⟩) :
    OpcodeRow.Decodes ⟨w, 0xF0FF⟩ := by
  intro op hsel
  have hmask : op &&& 0xF0FF#16 = w := beq_iff_eq.1 hsel
  exact h op (extractLsb'_of_and (by decide) hmask) (extractLsb'_of_and (by decide) hmask)

end

/-- The rows of the opcode map in its order, each with the instruction the decoder answers. -/
theorem decodes_of_mem_opcodeMap : ∀ row ∈ opcodeMap, row.Decodes := by
  simp only [opcodeMap, opcodeRowsLow, opcodeRowsHigh, List.cons_append, List.nil_append, List.forall_mem_cons]
  exact ⟨
    decodes_of_word ⟨.cls, rfl, rfl⟩,
    decodes_of_word ⟨.ret, rfl, rfl⟩,
    decodes_of_family fun op hc => ⟨.jp _, by rw [decode, hc]; rfl, rfl⟩,
    decodes_of_family fun op hc => ⟨.call _, by rw [decode, hc]; rfl, rfl⟩,
    decodes_of_family fun op hc => ⟨.seImm _ _, by rw [decode, hc]; rfl, rfl⟩,
    decodes_of_family fun op hc => ⟨.sneImm _ _, by rw [decode, hc]; rfl, rfl⟩,
    decodes_of_familyN fun op hc hn => ⟨.seReg _ _, by rw [decode_family5 hc, decodeFamily5, hn]; rfl, rfl⟩,
    decodes_of_family fun op hc => ⟨.ldImm _ _, by rw [decode, hc]; rfl, rfl⟩,
    decodes_of_family fun op hc => ⟨.addImm _ _, by rw [decode, hc]; rfl, rfl⟩,
    decodes_of_familyN fun op hc hn => ⟨.mov _ _, by rw [decode_family8 hc, decodeFamily8, hn]; rfl, rfl⟩,
    decodes_of_familyN fun op hc hn => ⟨.or _ _, by rw [decode_family8 hc, decodeFamily8, hn]; rfl, rfl⟩,
    decodes_of_familyN fun op hc hn => ⟨.and _ _, by rw [decode_family8 hc, decodeFamily8, hn]; rfl, rfl⟩,
    decodes_of_familyN fun op hc hn => ⟨.xor _ _, by rw [decode_family8 hc, decodeFamily8, hn]; rfl, rfl⟩,
    decodes_of_familyN fun op hc hn => ⟨.add _ _, by rw [decode_family8 hc, decodeFamily8, hn]; rfl, rfl⟩,
    decodes_of_familyN fun op hc hn => ⟨.sub _ _, by rw [decode_family8 hc, decodeFamily8, hn]; rfl, rfl⟩,
    decodes_of_familyN fun op hc hn => ⟨.shr _ _, by rw [decode_family8 hc, decodeFamily8, hn]; rfl, rfl⟩,
    decodes_of_familyN fun op hc hn => ⟨.subn _ _, by rw [decode_family8 hc, decodeFamily8, hn]; rfl, rfl⟩,
    decodes_of_familyN fun op hc hn => ⟨.shl _ _, by rw [decode_family8 hc, decodeFamily8, hn]; rfl, rfl⟩,
    decodes_of_familyN fun op hc hn => ⟨.sneReg _ _, by rw [decode_family9 hc, decodeFamily9, hn]; rfl, rfl⟩,
    decodes_of_family fun op hc => ⟨.ldI _, by rw [decode, hc]; rfl, rfl⟩,
    decodes_of_family fun op hc => ⟨.jpV0 _, by rw [decode, hc]; rfl, rfl⟩,
    decodes_of_family fun op hc => ⟨.rnd _ _, by rw [decode, hc]; rfl, rfl⟩,
    decodes_of_family fun op hc => ⟨.drw _ _ _, by rw [decode, hc]; rfl, rfl⟩,
    decodes_of_familyNN fun op hc hnn => ⟨.skp _, by rw [decode_familyE hc, decodeFamilyE, hnn]; rfl, rfl⟩,
    decodes_of_familyNN fun op hc hnn => ⟨.sknp _, by rw [decode_familyE hc, decodeFamilyE, hnn]; rfl, rfl⟩,
    decodes_of_familyNN fun op hc hnn => ⟨.ldXDt _, by rw [decode_familyF hc, decodeFamilyF, hnn]; rfl, rfl⟩,
    decodes_of_familyNN fun op hc hnn => ⟨.ldXK _, by rw [decode_familyF hc, decodeFamilyF, hnn]; rfl, rfl⟩,
    decodes_of_familyNN fun op hc hnn => ⟨.ldDtX _, by rw [decode_familyF hc, decodeFamilyF, hnn]; rfl, rfl⟩,
    decodes_of_familyNN fun op hc hnn => ⟨.ldStX _, by rw [decode_familyF hc, decodeFamilyF, hnn]; rfl, rfl⟩,
    decodes_of_familyNN fun op hc hnn => ⟨.addIX _, by rw [decode_familyF hc, decodeFamilyF, hnn]; rfl, rfl⟩,
    decodes_of_familyNN fun op hc hnn => ⟨.ldFX _, by rw [decode_familyF hc, decodeFamilyF, hnn]; rfl, rfl⟩,
    decodes_of_familyNN fun op hc hnn => ⟨.ldBX _, by rw [decode_familyF hc, decodeFamilyF, hnn]; rfl, rfl⟩,
    decodes_of_familyNN fun op hc hnn => ⟨.stRegs _, by rw [decode_familyF hc, decodeFamilyF, hnn]; rfl, rfl⟩,
    decodes_of_familyNN fun op hc hnn => ⟨.ldRegs _, by rw [decode_familyF hc, decodeFamilyF, hnn]; rfl, rfl⟩,
    fun _ h => absurd h List.not_mem_nil⟩

end Sys2Proof

namespace Sys2Proof.Laws.SelectsRow

/-- The word of every instruction selects the instruction's own row. -/
theorem encode_selectsRow : ∀ i, Statement i
  | .cls => cls
  | .ret => ret
  | .jp nnn => jp nnn
  | .call nnn => call nnn
  | .seImm x nn => seImm x nn
  | .sneImm x nn => sneImm x nn
  | .seReg x y => seReg x y
  | .ldImm x nn => ldImm x nn
  | .addImm x nn => addImm x nn
  | .mov x y => mov x y
  | .or x y => or x y
  | .and x y => and x y
  | .xor x y => xor x y
  | .add x y => add x y
  | .sub x y => sub x y
  | .shr x y => shr x y
  | .subn x y => subn x y
  | .shl x y => shl x y
  | .sneReg x y => sneReg x y
  | .ldI nnn => ldI nnn
  | .jpV0 nnn => jpV0 nnn
  | .rnd x nn => rnd x nn
  | .drw x y n => drw x y n
  | .skp x => skp x
  | .sknp x => sknp x
  | .ldXDt x => ldXDt x
  | .ldXK x => ldXK x
  | .ldDtX x => ldDtX x
  | .ldStX x => ldStX x
  | .addIX x => addIX x
  | .ldFX x => ldFX x
  | .ldBX x => ldBX x
  | .stRegs x => stRegs x
  | .ldRegs x => ldRegs x

end Sys2Proof.Laws.SelectsRow

namespace Sys2Proof

/-! ## Decoding and the rows of the opcode map -/

/-- A decoded word selects its instruction's row, since it is the instruction's word. -/
theorem selectedBy_of_decode {op : Word} {i : Instr} (h : decode op = .instr i) :
    ∃ row, opcodeMap[i.rowNumber]? = some row ∧ row.selectedBy op = true :=
  encode_of_decode h ▸ Laws.SelectsRow.encode_selectsRow i

/-- No two rows overlap: both are the row of the instruction the word decodes to. -/
theorem eq_of_selectedBy {op : Word} {row row' : OpcodeRow} (hmem : row ∈ opcodeMap) (hmem' : row' ∈ opcodeMap)
    (h : row.selectedBy op = true) (h' : row'.selectedBy op = true) : row = row' := by
  obtain ⟨i, hi, hrow⟩ := decodes_of_mem_opcodeMap row hmem op h
  obtain ⟨j, hj, hrow'⟩ := decodes_of_mem_opcodeMap row' hmem' op h'
  have hij : i = j := Decoded.instr.inj (hi.symm.trans hj)
  subst hij
  exact Option.some.inj (hrow.symm.trans hrow')

/-- The decoder rejects exactly the words that select no row. -/
theorem decode_rejected_iff (op : Word) :
    (∃ why, decode op = .rejected why) ↔ ∀ row ∈ opcodeMap, row.selectedBy op = false := by
  constructor
  · rintro ⟨why, hwhy⟩ row hmem
    refine Bool.eq_false_iff.2 fun hsel => ?_
    obtain ⟨i, hi, -⟩ := decodes_of_mem_opcodeMap row hmem op hsel
    cases hwhy.symm.trans hi
  · intro hnone
    cases hd : decode op with
    | rejected why => exact ⟨why, rfl⟩
    | instr i =>
      obtain ⟨row, hrow, hsel⟩ := selectedBy_of_decode hd
      exact absurd hsel (Bool.eq_false_iff.1 (hnone row (List.mem_of_getElem? hrow)))

/-- Settles O3: a word that selects a row decodes to the row's instruction, and a decoded word selects its instruction's
row. -/
theorem decodingFollowsOpcodeMap : Obligations.DecodingFollowsOpcodeMap :=
  ⟨rfl, fun _ _ _ => eq_of_selectedBy, fun _ _ => selectedBy_of_decode, decode_rejected_iff⟩

end Sys2Proof

namespace Sys2Proof.Machine

/-! ## The no-op of an unknown word (R100) -/

/-- Right after the fetch advance the record holds the address of the unknown word. -/
theorem State.recordUnknown_advancePc (s : State) (op : Word) :
    s.advancePc.recordUnknown op = { s with pc := s.pc + 2, unkValid := true, unkOp := op, unkPc := s.pc } := by
  have hipc : s.advancePc.ipc = s.pc := State.ipc_setPc_add_two s s.pc
  rw [State.recordUnknown, hipc]
  rfl

/-- Settles O7: the decoder rejects a word of no row, and the Step records it. -/
theorem unknownOpcodeIsRecordedNoOp : Obligations.UnknownOpcodeIsRecordedNoOp := by
  intro s hrun hnone
  obtain ⟨why, hwhy⟩ := (decode_rejected_iff s.fetchWord).2 hnone
  rw [step_of_run hrun, executeWord_unknown hwhy, State.recordUnknown_advancePc]

end Sys2Proof.Machine
end

section
/-! PROOFS of the family 40_cycle: what one Step does to STATE, KEYS and the timers (R120, R121, R125-R128, R131). -/

namespace Sys2Proof.Machine

/-! ## Frames of the shared operations -/

/-- 00EE writes at most SP, PC and, on an empty stack, the record of the fault. -/
theorem State.popPc_frame (s : State) :
    s.popPc = { s with
      sp := s.popPc.sp, pc := s.popPc.pc, faultCode := s.popPc.faultCode, faultPc := s.popPc.faultPc,
      mode := s.popPc.mode } := by
  rcases Nat.eq_zero_or_pos s.sp.val with h | h
  · rw [popPc_underflow h]; rfl
  · rw [popPc_pop h]

/-- 2NNN writes at most the stack, SP, PC and, at the depth, the record of the fault. -/
theorem State.callWith_frame (s : State) {depth : Nat} (hd : depth ≤ 16) (target : Word) :
    s.callWith depth target = { s with
      stack := (s.callWith depth target).stack, sp := (s.callWith depth target).sp, pc := (s.callWith depth target).pc,
      faultCode := (s.callWith depth target).faultCode, faultPc := (s.callWith depth target).faultPc,
      mode := (s.callWith depth target).mode } := by
  rcases Nat.lt_or_ge s.sp.val depth with h | h
  · rw [callWith_push target h hd]
  · rw [callWith_overflow target h]; rfl

/-- A Step in WAIT_KEY writes at most the V registers, KEV_VALID, PC and STATE. -/
theorem State.resumeWait_frame (s : State) :
    s.resumeWait = { s with
      v := s.resumeWait.v, kevValid := s.resumeWait.kevValid, pc := s.resumeWait.pc, mode := s.resumeWait.mode } := by
  cases hv : s.kevValid with
  | false => rw [resumeWait_empty hv]
  | true => rw [resumeWait_event hv]; rfl

/-! ## STATE after the shared operations -/

@[simp] theorem State.skipIf_mode (s : State) (c : Bool) : (s.skipIf c).mode = s.mode := by
  rw [skipIf_eq, setPc_mode]

theorem State.popPc_mode (s : State) : s.popPc.mode = if s.sp.val = 0 then .halted else s.mode := by
  split
  case isTrue h => rw [popPc_underflow h, raiseFault_mode]
  case isFalse h => rw [popPc_pop (Nat.pos_of_ne_zero h)]

theorem State.callWith_mode (s : State) {depth : Nat} (hd : depth ≤ 16) (target : Word) :
    (s.callWith depth target).mode = if s.sp.val < depth then s.mode else .halted := by
  split
  case isTrue h => rw [callWith_push target h hd]
  case isFalse h => rw [callWith_overflow target (not_lt.mp h), raiseFault_mode]

theorem State.resumeWait_mode (s : State) : s.resumeWait.mode = if s.kevValid then .run else s.mode := by
  split
  case isTrue h => rw [resumeWait_event h]
  case isFalse h => rw [resumeWait_empty (Bool.eq_false_iff.2 h)]

@[simp] theorem keyPress_mode (k : Nibble) (s : State) : (keyPress k s).mode = s.mode := by
  rw [keyPress]
  split <;> rfl

theorem load_mode (image : List Byte) (s : State) :
    (load image s).1.mode = if image.length ≤ Config.maxImage then .run else s.mode := by
  rw [load]
  split
  case isTrue h => rw [loadWith_ok _ _ h]; rfl
  case isFalse h => rw [loadWith_tooLarge _ _ (not_le.mp h)]

/-! ## Execution of an instruction and STATE (R128) -/

/-- What execution does to STATE: FX0A waits, 00EE and 2NNN may halt, and everything else keeps it. -/
theorem exec_mode_cases {i : Instr} {s t : State} (h : exec i s = .next t) :
    ((∃ x, i = .ldXK x) ∧ t.mode = .waitKey) ∨
    (i = .ret ∧ s.sp.val = 0 ∧ t.mode = .halted) ∨
    ((∃ nnn, i = .call nnn) ∧ s.sp.val = Config.stackDepth ∧ t.mode = .halted) ∨
    ((∀ x, i ≠ .ldXK x) ∧ (i = .ret → s.sp.val ≠ 0) ∧ (∀ nnn, i = .call nnn → s.sp.val ≠ Config.stackDepth) ∧
      t.mode = s.mode) := by
  cases i with
  | ldXK x => cases h; exact .inl ⟨⟨x, rfl⟩, rfl⟩
  | ret =>
    cases h
    rw [State.popPc_mode]
    by_cases hsp : s.sp.val = 0
    · exact .inr (.inl ⟨rfl, hsp, if_pos hsp⟩)
    · exact .inr (.inr (.inr ⟨nofun, fun _ => hsp, nofun, if_neg hsp⟩))
  | call nnn =>
    cases h
    rw [State.callWith_mode s (by decide)]
    have hle : s.sp.val ≤ Config.stackDepth := Nat.le_of_lt_succ s.sp.isLt
    by_cases hsp : s.sp.val = Config.stackDepth
    · exact .inr (.inr (.inl ⟨⟨nnn, rfl⟩, hsp, if_neg hsp.not_lt⟩))
    · exact .inr (.inr (.inr ⟨nofun, nofun, fun _ _ => hsp, if_pos (lt_of_le_of_ne hle hsp)⟩))
  | seImm | sneImm | seReg | sneReg | skp | sknp =>
    cases h
    exact .inr (.inr (.inr ⟨nofun, nofun, nofun, s.skipIf_mode _⟩))
  | ldRegs x =>
    obtain rfl : s.loadRegs x = t := Host.Outcome.next.inj h
    rw [State.loadRegs_eq]
    exact .inr (.inr (.inr ⟨nofun, nofun, nofun, rfl⟩))
  | _ => cases h; exact .inr (.inr (.inr ⟨nofun, nofun, nofun, rfl⟩))

/-- From RUN, the instruction that enters WAIT_KEY is FX0A. -/
theorem exec_mode_waitKey_iff {i : Instr} {s t : State} (hrun : s.mode = .run) (h : exec i s = .next t) :
    t.mode = .waitKey ↔ ∃ x, i = .ldXK x := by
  obtain ⟨hk, hm⟩ | ⟨rfl, -, hm⟩ | ⟨⟨nnn, rfl⟩, -, hm⟩ | ⟨hk, -, -, hm⟩ := exec_mode_cases h
  · exact iff_of_true hm hk
  · simp [hm]
  · simp [hm]
  · simp [hm, hrun, hk]

/-- From RUN, the instructions that enter HALTED are 00EE on an empty stack and 2NNN on a full one. -/
theorem exec_mode_halted_iff {i : Instr} {s t : State} (hrun : s.mode = .run) (h : exec i s = .next t) :
    t.mode = .halted ↔
      (i = .ret ∧ s.sp.val = 0) ∨ ((∃ nnn, i = .call nnn) ∧ s.sp.val = Config.stackDepth) := by
  obtain ⟨⟨x, rfl⟩, hm⟩ | ⟨hr, hsp, hm⟩ | ⟨hc, hsp, hm⟩ | ⟨-, hr, hc, hm⟩ := exec_mode_cases h
  · simp [hm]
  · exact iff_of_true hm (.inl ⟨hr, hsp⟩)
  · exact iff_of_true hm (.inr ⟨hc, hsp⟩)
  · refine iff_of_false (by simp [hm, hrun]) ?_
    rintro (⟨hi, hsp⟩ | ⟨⟨nnn, hi⟩, hsp⟩)
    · exact hr hi hsp
    · exact hc nnn hi hsp

/-! ## The transition table (R128) -/

/-- A Step in RUN leaves RUN exactly by FX0A, by 00EE on an empty stack, and by 2NNN on a full one. -/
theorem step_mode_of_run {s t : State} (hrun : s.mode = .run) (h : step s = .next t) :
    (t.mode = .waitKey ↔ ∃ x, decode s.fetchWord = .instr (.ldXK x)) ∧
    (t.mode = .halted ↔ (decode s.fetchWord = .instr .ret ∧ s.sp.val = 0) ∨
      ((∃ nnn, decode s.fetchWord = .instr (.call nnn)) ∧ s.sp.val = Config.stackDepth)) := by
  have hrun' : s.advancePc.mode = .run := hrun
  rw [step_of_run hrun] at h
  cases hd : decode s.fetchWord with
  | instr i =>
    rw [executeWord_instr hd] at h
    simp only [Decoded.instr.injEq]
    have hhalted := exec_mode_halted_iff hrun' h
    exact ⟨exec_mode_waitKey_iff hrun' h, hhalted⟩
  | rejected why =>
    rw [executeWord_unknown hd] at h
    cases h
    simp [hrun]

/-- Settles O11: each transaction has its own law of STATE, and a Step in RUN has the exits of the decoded instruction. -/
theorem stateChangesByTransitionTable : Obligations.StateChangesByTransitionTable := by
  intro tr s t h
  refine ⟨?load, ?run, ?wait, ?halted, ?tick, ?setKeys, ?keyPress, ?ackDisplay⟩
  case load => rintro image rfl; cases h; exact load_mode image s
  case run => rintro rfl hm; exact step_mode_of_run hm h
  case wait =>
    rintro rfl hm
    cases (step_of_wait hm).symm.trans h
    rw [State.resumeWait_mode, hm]
  case halted => rintro rfl hm; cases (step_of_halted hm).symm.trans h; exact hm
  case tick => rintro rfl; cases h; rfl
  case setKeys => rintro mask rfl; cases h; rfl
  case keyPress => rintro k rfl; cases h; exact keyPress_mode k s
  case ackDisplay => rintro rfl; cases h; rfl

/-- Settles O9: by the transition table, every transaction but a Load that fits keeps HALTED. -/
theorem haltedCoreLeftOnlyByLoad : Obligations.HaltedCoreLeftOnlyByLoad := by
  intro s hm
  refine ⟨fun m => step_of_halted (s := { s with mem := m }) hm, fun tr t h hleft => ?_, fun image t hfits h => ?_⟩
  · obtain ⟨hload, -, -, hstep, htick, hsetKeys, hkeyPress, hack⟩ := stateChangesByTransitionTable tr s t h
    cases tr with
    | load image =>
      by_cases hfits : image.length ≤ 3584
      · exact ⟨image, rfl, hfits⟩
      · exact absurd ((hload image rfl).trans ((if_neg hfits).trans hm)) hleft
    | step => exact absurd (hstep rfl hm) hleft
    | tick => exact absurd ((htick rfl).trans hm) hleft
    | setKeys mask => exact absurd ((hsetKeys mask rfl).trans hm) hleft
    | keyPress k => exact absurd ((hkeyPress k rfl).trans hm) hleft
    | ackDisplay => exact absurd ((hack rfl).trans hm) hleft
  · obtain ⟨hload, -⟩ := stateChangesByTransitionTable _ s t h
    exact (hload image rfl).trans (if_pos hfits)

/-! ## The completion of a key wait (R125) -/

/-- Settles O8: the completed wait writes WAIT_X's register, and the frame is that of the completion. -/
theorem waitingStepCompletesOnlyOnEvent : Obligations.WaitingStepCompletesOnlyOnEvent := by
  intro s hm
  rw [step_of_wait hm]
  refine ⟨fun hv => ⟨_, congrArg _ (State.resumeWait_event hv), ?_, fun r hr => ?_, rfl⟩, fun hv => ?_⟩
  · have hkey := State.readV_writeV_same s s.waitX (s.kevKey.setWidth 8)
    exact (congrArg BitVec.toNat hkey).trans (BitVec.toNat_setWidth_of_le (by decide))
  · exact State.readV_writeV_other s hr _
  · rw [State.resumeWait_empty hv]

/-! ## Every transaction answers a state (R127) -/

theorem executeWord_next (op : Word) (s : State) : ∃ t, executeWord op s = .next t := by
  cases hd : decode op with
  | instr i => rw [executeWord_instr hd]; exact exec_next i s
  | rejected why => exact ⟨_, executeWord_unknown hd s⟩

theorem step_next (s : State) : ∃ t, step s = .next t := by
  cases hm : s.mode with
  | run => rw [step_of_run hm]; exact executeWord_next _ _
  | waitKey => exact ⟨_, step_of_wait hm⟩
  | halted => exact ⟨_, step_of_halted hm⟩

theorem transact_next (tr : Transaction) (s : State) : ∃ t, transact tr s = .next t := by
  cases tr with
  | step => exact step_next s
  | _ => exact ⟨_, rfl⟩

theorem runSchedule_next (schedule : List Transaction) (s : State) : ∃ t, runSchedule schedule s = .next t := by
  induction schedule generalizing s with
  | nil => exact ⟨s, rfl⟩
  | cons tr trs ih =>
    obtain ⟨t, ht⟩ := transact_next tr s
    rw [runSchedule_cons trs ht]
    exact ih t

/-- Settles O10: every meaning answers a next state, so every Step, transaction and schedule does. -/
theorem everyTransactionReturns : Obligations.EveryTransactionReturns := ⟨step_next, transact_next, runSchedule_next⟩

/-! ## KEYS and the timers (R131) -/

/-- What execution does to KEYS and the timers: only FX15 writes DT, only FX18 writes ST, and nothing writes KEYS. -/
theorem exec_keys_timers {i : Instr} {s t : State} (h : exec i s = .next t) :
    t.keys = s.keys ∧ (t.dt = s.dt ∨ ∃ x, i = .ldDtX x ∧ t.dt = s.readV x) ∧
    (t.st = s.st ∨ ∃ x, i = .ldStX x ∧ t.st = s.readV x) := by
  cases i with
  | ldDtX x => cases h; exact ⟨rfl, .inr ⟨x, rfl, rfl⟩, .inl rfl⟩
  | ldStX x => cases h; exact ⟨rfl, .inl rfl, .inr ⟨x, rfl, rfl⟩⟩
  | ret => cases h; rw [State.popPc_frame]; exact ⟨rfl, .inl rfl, .inl rfl⟩
  | call nnn => cases h; rw [State.callWith_frame s (by decide)]; exact ⟨rfl, .inl rfl, .inl rfl⟩
  | seImm | sneImm | seReg | sneReg | skp | sknp =>
    cases h
    rw [State.skipIf_eq]
    exact ⟨rfl, .inl rfl, .inl rfl⟩
  | ldRegs x =>
    obtain rfl : s.loadRegs x = t := Host.Outcome.next.inj h
    rw [State.loadRegs_eq]
    exact ⟨rfl, .inl rfl, .inl rfl⟩
  | _ => cases h; exact ⟨rfl, .inl rfl, .inl rfl⟩

/-- Settles O12: only a Step in RUN that executes FX15 or FX18 writes one of the three. -/
theorem stepLeavesKeysAndTimers : Obligations.StepLeavesKeysAndTimers := by
  intro s t h
  obtain ⟨hm, i, hi, hexec⟩ | ⟨-, -, rfl⟩ | ⟨-, rfl⟩ | ⟨-, rfl⟩ := step_cases h
  · obtain ⟨hkeys, hdt, hst⟩ := exec_keys_timers hexec
    refine ⟨hkeys, hdt.imp_right ?_, hst.imp_right ?_⟩
    · rintro ⟨x, rfl, hx⟩
      exact ⟨hm, x, hi, hx⟩
    · rintro ⟨x, rfl, hx⟩
      exact ⟨hm, x, hi, hx⟩
  · exact ⟨rfl, .inl rfl, .inl rfl⟩
  · rw [State.resumeWait_frame]
    exact ⟨rfl, .inl rfl, .inl rfl⟩
  · exact ⟨rfl, .inl rfl, .inl rfl⟩

/-! ## The Step in RUN (R121) -/

/-- Settles O6: the two bytes are the fetched word, and the state with PC advanced is where it executes. -/
theorem stepRunsDecodedInstruction : Obligations.StepRunsDecodedInstruction := by
  constructor
  · intro s i hrun hdecode
    rw [step_of_run hrun]
    exact executeWord_instr (op := s.fetchWord) hdecode s.advancePc
  · intro s why hrun hdecode
    refine ⟨s.advancePc.recordUnknown s.fetchWord, ?_, rfl, rfl⟩
    rw [step_of_run hrun]
    exact executeWord_unknown (op := s.fetchWord) hdecode s.advancePc

end Sys2Proof.Machine
end

section
/-! PROOFS of the family 41_flow: jumps, skips, call and return, each as the whole next state (R141-R149). -/

namespace Sys2Proof.Machine

/-! ## Targets of jumps and calls (R142, R143, R149) -/

@[simp] theorem toNat_addressOperand (nnn : Addr12) : (addressOperand nnn).toNat = nnn.toNat :=
  BitVec.toNat_setWidth_of_le (by decide)

@[simp] theorem toNat_byteAsWord (b : Byte) : (byteAsWord b).toNat = b.toNat :=
  BitVec.toNat_setWidth_of_le (by decide)

/-- A 12-bit address plus a byte is at most 0x10FE, so the 16 bits of PC hold the sum unreduced (R149). -/
theorem toNat_addressOperand_add_byteAsWord (nnn : Addr12) (b : Byte) :
    (addressOperand nnn + byteAsWord b).toNat = nnn.toNat + b.toNat := by
  rw [BitVec.toNat_add_of_lt, toNat_addressOperand, toNat_byteAsWord]
  rw [toNat_addressOperand, toNat_byteAsWord]
  omega

/-- Settles O23: both jumps write PC alone, and neither target wraps. -/
theorem jumpsSetPc : Obligations.JumpsSetPc := by
  intro nnn s
  have hjp : (addressOperand nnn).toNat = nnn.toNat := toNat_addressOperand nnn
  have hjpV0 : (addressOperand nnn + byteAsWord (s.readV 0)).toNat = nnn.toNat + (s.readV 0).toNat :=
    toNat_addressOperand_add_byteAsWord nnn (s.readV 0)
  exact ⟨⟨_, rfl, hjp, rfl, fun _ => rfl⟩, ⟨_, rfl, hjpV0, rfl, fun _ => rfl⟩⟩

/-! ## Skips by a comparison (R144-R148) -/

/-- A skip on equality adds 2 to PC exactly when the bytes are equal. -/
theorem State.skipIf_beq (s : State) (a b : Byte) :
    s.skipIf (a == b) = { s with pc := if a = b then s.pc + 2 else s.pc } := by
  rw [skipIf_eq, setPc]
  simp only [beq_iff_eq]

/-- A skip on difference adds 2 to PC exactly when the bytes differ. -/
theorem State.skipIf_bne (s : State) (a b : Byte) :
    s.skipIf (a != b) = { s with pc := if a = b then s.pc else s.pc + 2 } := by
  rw [skipIf_eq, setPc]
  simp only [bne_iff_ne, ite_not]

/-- Settles O24: each of the four is a skip on equality or on difference of its two bytes. -/
theorem skipsCompareRegisters : Obligations.SkipsCompareRegisters := fun x y nn s =>
  ⟨congrArg Host.Outcome.next (s.skipIf_beq (s.readV x) nn),
    congrArg Host.Outcome.next (s.skipIf_bne (s.readV x) nn),
    congrArg Host.Outcome.next (s.skipIf_beq (s.readV x) (s.readV y)),
    congrArg Host.Outcome.next (s.skipIf_bne (s.readV x) (s.readV y))⟩

/-! ## Call and return (R141, R143) -/

/-- The stack after a call below the depth, entry by entry: only the entry at SP is written, with the return address. -/
theorem State.getElem_stack_callWith {s : State} {depth : Nat} (target : Word) (h : s.sp.val < depth) (hd : depth ≤ 16)
    (j : Fin 16) : (s.callWith depth target).stack[j] = if j.val = s.sp.val then s.pc else s.stack[j] := by
  rw [callWith_push target h hd]
  simp only [Fin.getElem_fin, Vector.getElem_set, eq_comm (a := s.sp.val)]

/-- Settles O25: below the depth the call pushes, and at the depth it enters the fault. -/
theorem callPushesReturnAddress : Obligations.CallPushesReturnAddress := by
  intro nnn s
  constructor
  · intro hlt
    refine ⟨s.callWith Config.stackDepth (addressOperand nnn), rfl, ?stack, ?rest⟩
    case stack => exact State.getElem_stack_callWith _ hlt (by decide)
    case rest => rw [State.callWith_push _ hlt (by decide)]; exact ⟨rfl, toNat_addressOperand nnn, rfl, fun _ => rfl⟩
  · intro hfull
    exact congrArg Host.Outcome.next (State.callWith_overflow (addressOperand nnn) hfull.ge)

/-- Settles O26: with an entry on the stack the return pops it, and with none it enters the fault. -/
theorem returnPopsReturnAddress : Obligations.ReturnPopsReturnAddress := by
  intro s
  constructor
  · intro hpos
    refine ⟨_, congrArg Host.Outcome.next (State.popPc_pop hpos), fun j hj => ?top, Nat.sub_add_cancel hpos, rfl,
      fun _ => rfl⟩
    case top => simp only [← hj, Nat.add_sub_cancel, Fin.getElem_fin]
  · intro hempty
    exact congrArg Host.Outcome.next (State.popPc_underflow hempty)

end Sys2Proof.Machine
end

section
/-! PROOFS of the family 42_alu: loads, moves and arithmetic, each with its value in VX, its flag in VF, and nothing else
changed (R160-R171, R174). -/

namespace Sys2Proof.Machine

/-! ## Instructions that write VX alone (R161-R166) -/

/-- The frame of a register write. -/
theorem State.writeV_onlyRegisters (s : State) (x : Reg) (b : Byte) : OnlyRegisters [x] s (s.writeV x b) :=
  ⟨fun _ hr => State.readV_writeV_other s (List.ne_of_not_mem_cons hr) b, fun _ => rfl, rfl⟩

/-- Settles O17: each of the three writes one byte to VX, and a sum of bytes is taken modulo 256. -/
theorem loadsMovesAndImmediateAdd : Obligations.LoadsMovesAndImmediateAdd := by
  intro x y nn s
  refine ⟨⟨s.writeV x nn, rfl, s.readV_writeV_same x nn, s.writeV_onlyRegisters x nn⟩,
    ⟨s.writeV x (s.readV x + nn), rfl, ?sum, s.writeV_onlyRegisters x _⟩,
    ⟨s.writeV x (s.readV y), rfl, s.readV_writeV_same x _, s.writeV_onlyRegisters x _⟩⟩
  case sum => rw [State.readV_writeV_same, BitVec.toNat_add]

/-- Settles O18: each of the three writes a bitwise combination to VX, which acts bit by bit. -/
theorem bitwiseOperations : Obligations.BitwiseOperations := by
  intro x y s
  refine ⟨⟨s.writeV x (s.readV x ||| s.readV y), rfl, fun k _ => ?or, s.writeV_onlyRegisters x _⟩,
    ⟨s.writeV x (s.readV x &&& s.readV y), rfl, fun k _ => ?and, s.writeV_onlyRegisters x _⟩,
    ⟨s.writeV x (s.readV x ^^^ s.readV y), rfl, fun k _ => ?xor, s.writeV_onlyRegisters x _⟩⟩
  case or => rw [State.readV_writeV_same, BitVec.getLsbD_or]
  case and => rw [State.readV_writeV_same, BitVec.getLsbD_and]
  case xor => rw [State.readV_writeV_same, BitVec.getLsbD_xor]

/-! ## Instructions that write VX and then the flag (R160, R174) -/

/-- VF holds the flag, even when X = 15. -/
@[simp] theorem State.readV_vf_writeResultAndFlag (s : State) (x : Reg) (b : Byte) (f : Bool) :
    (s.writeResultAndFlag x b f).readV vf = flagByte f := by
  rw [readV_writeResultAndFlag, if_pos rfl]

/-- A destination other than VF holds the result. -/
theorem State.readV_result_writeResultAndFlag (s : State) {x : Reg} (h : x ≠ vf) (b : Byte) (f : Bool) :
    (s.writeResultAndFlag x b f).readV x = b := by
  rw [readV_writeResultAndFlag, if_neg h, if_pos rfl]

/-- The frame of the two writes. -/
theorem State.writeResultAndFlag_onlyRegisters (s : State) (x : Reg) (b : Byte) (f : Bool) :
    OnlyRegisters [x, vf] s (s.writeResultAndFlag x b f) := by
  refine ⟨fun r hr => ?_, fun _ => rfl, rfl⟩
  obtain ⟨hx, hvf⟩ : r ≠ x ∧ r ≠ vf := by simpa using hr
  rw [readV_writeResultAndFlag, if_neg hvf, if_neg hx]

/-- An instruction that writes a result to VX and then a flag completes with the flag's number in VF and, if X is not 15,
the result's number in VX. -/
theorem completes_of_exec_writeResultAndFlag {i : Instr} {s : State} {x : Reg} {b : Byte} {f : Bool} {flag result : Nat}
    (h : exec i s = .next (s.writeResultAndFlag x b f)) (hflag : (flagByte f).toNat = flag) (hresult : b.toNat = result) :
    ∃ t, exec i s = .next t ∧ (t.readV 15).toNat = flag ∧ (x ≠ 15 → (t.readV x).toNat = result) ∧
      OnlyRegisters [x, 15] s t := by
  refine ⟨_, h, ?vf, fun hx => ?vx, s.writeResultAndFlag_onlyRegisters x b f⟩
  case vf => exact (congrArg BitVec.toNat (s.readV_vf_writeResultAndFlag x b f)).trans hflag
  case vx => rw [s.readV_result_writeResultAndFlag hx, hresult]

/-! The flags as numbers. -/

theorem toNat_flagByte (f : Bool) : (flagByte f).toNat = f.toNat := by
  cases f <;> rfl

theorem toNat_flagByte_decide (p : Prop) [Decidable p] : (flagByte (decide p)).toNat = if p then 1 else 0 := by
  by_cases h : p <;> simp [toNat_flagByte, h]

theorem toNat_flagByte_carry (a b : Byte) :
    (flagByte (carry a b)).toNat = if a.toNat + b.toNat > 255 then 1 else 0 :=
  toNat_flagByte_decide (a.toNat + b.toNat > 255)

theorem toNat_flagByte_notBorrow (a b : Byte) :
    (flagByte (notBorrow a b)).toNat = if a.toNat ≥ b.toNat then 1 else 0 :=
  toNat_flagByte_decide (a.toNat ≥ b.toNat)

theorem toNat_flagByte_getLsbD (b : Byte) (k : Nat) : (flagByte (b.getLsbD k)).toNat = b.toNat / 2 ^ k % 2 := by
  rw [toNat_flagByte, ← BitVec.testBit_toNat, Nat.toNat_testBit]

/-- The lowest bit is the parity. -/
theorem toNat_flagByte_shiftedOutRight (b : Byte) : (flagByte (shiftedOutRight b)).toNat = b.toNat % 2 := by
  rw [shiftedOutRight, toNat_flagByte_getLsbD, Nat.pow_zero, Nat.div_one]

/-- The highest bit says whether the byte is at least 128. -/
theorem toNat_flagByte_shiftedOutLeft (b : Byte) : (flagByte (shiftedOutLeft b)).toNat = b.toNat / 128 := by
  rw [shiftedOutLeft, toNat_flagByte_getLsbD]
  omega

/-! The results as numbers. -/

theorem toNat_sub_byte (a b : Byte) : (a - b).toNat = (a.toNat + 256 - b.toNat) % 256 := by
  rw [BitVec.toNat_sub]
  omega

theorem toNat_shiftRight_one_byte (b : Byte) : (b >>> 1).toNat = b.toNat / 2 := by
  rw [BitVec.toNat_ushiftRight, Nat.shiftRight_one]

theorem toNat_shiftLeft_one_byte (b : Byte) : (b <<< 1).toNat = b.toNat * 2 % 256 := by
  rw [BitVec.toNat_shiftLeft, Nat.shiftLeft_eq, Nat.pow_one]

/-- Settles O19: the sum and the carry of VX and VY. -/
theorem addWritesSumThenCarry : Obligations.AddWritesSumThenCarry := fun x y s =>
  completes_of_exec_writeResultAndFlag rfl (toNat_flagByte_carry (s.readV x) (s.readV y))
    (BitVec.toNat_add (s.readV x) (s.readV y))

/-- Settles O20: a difference and its not-borrow, of VX and VY in the two orders. -/
theorem subtractWritesDifferenceThenNotBorrow : Obligations.SubtractWritesDifferenceThenNotBorrow := fun x y s =>
  ⟨completes_of_exec_writeResultAndFlag rfl (toNat_flagByte_notBorrow (s.readV x) (s.readV y))
      (toNat_sub_byte (s.readV x) (s.readV y)),
    completes_of_exec_writeResultAndFlag rfl (toNat_flagByte_notBorrow (s.readV y) (s.readV x))
      (toNat_sub_byte (s.readV y) (s.readV x))⟩

/-- Settles O21: VY shifted by one and the bit shifted out, to the right and to the left. -/
theorem shiftsTakeVyAndShiftedOutBit : Obligations.ShiftsTakeVyAndShiftedOutBit := fun _ y s =>
  ⟨completes_of_exec_writeResultAndFlag rfl (toNat_flagByte_shiftedOutRight (s.readV y))
      (toNat_shiftRight_one_byte (s.readV y)),
    completes_of_exec_writeResultAndFlag rfl (toNat_flagByte_shiftedOutLeft (s.readV y))
      (toNat_shiftLeft_one_byte (s.readV y))⟩

end Sys2Proof.Machine
end

section
/-! PROOFS of the family 43_index_memory: loads of I, and transfers between the V registers and memory (R190-R196). -/

namespace Sys2Proof.Machine

/-! ## Block stores at I (R190) -/

/-- Byte `k` of a block stored at I is read back at `I + k`. -/
theorem State.read_storeBytes_indirect {s : State} {vs : List Byte} {k : Nat} (hm : Memory.wf s.mem = true)
    (hlen : vs.length ≤ Config.memSize) (hk : k < vs.length) :
    Memory.read (s.storeBytes (s.indirect 0) vs).mem (s.indirect k) = vs[k] :=
  Memory.read_writeBytes_inside hm hlen hk

/-- A block store changes no byte outside the block. -/
theorem State.storeBytes_keptOutside {s : State} (a : Nat) (vs : List Byte) (hm : Memory.wf s.mem = true) :
    MemoryKeptOutside a vs.length s (s.storeBytes a vs) :=
  fun _ h => Memory.read_writeBytes_outside hm h

/-! ## FX55 (R195) -/

/-- FX55 leaves register `k`, for `k` up to X, at `I + k`. -/
theorem State.read_storeBytes_firstRegs {s : State} {x k : Reg} (hm : Memory.wf s.mem = true) (hk : k ≤ x) :
    Memory.read (s.storeBytes (s.indirect 0) (s.firstRegs x)).mem (s.indirect k.val) = s.readV k := by
  have hlen : (s.firstRegs x).length ≤ Config.memSize := by
    rw [length_firstRegs]
    exact x.isLt.trans (by decide)
  have hlt : k.val < (s.firstRegs x).length := by
    rw [length_firstRegs]
    exact Nat.lt_succ_of_le hk
  rw [read_storeBytes_indirect hm hlen hlt, getElem_firstRegs]

/-- Settles O32: a block store of the first X + 1 registers. -/
theorem registersStored : Obligations.RegistersStored := by
  intro x s hm
  refine ⟨s.storeBytes (s.indirect 0) (s.firstRegs x), rfl, fun k hk => State.read_storeBytes_firstRegs hm hk, ?outside, rfl,
    State.wf_storeBytes _ _ hm⟩
  case outside => exact s.length_firstRegs x ▸ State.storeBytes_keptOutside _ _ hm

/-! ## FX33 (R194) -/

/-- A number below 256, as every decimal digit is, fits in a byte. -/
theorem toNat_ofNat_byte {n : Nat} (h : n < 256) : (BitVec.ofNat 8 n).toNat = n := by
  rw [BitVec.toNat_ofNat, Nat.mod_eq_of_lt h]

@[simp] theorem length_decimalDigits (b : Byte) : (decimalDigits b).length = 3 := rfl

/-- FX33 leaves digit `k` at `I + k`. -/
theorem State.read_storeBytes_decimalDigits {s : State} (b : Byte) {k : Nat} (hm : Memory.wf s.mem = true) (hk : k < 3) :
    Memory.read (s.storeBytes (s.indirect 0) (decimalDigits b)).mem (s.indirect k) = (decimalDigits b)[k] := by
  have hlen : (decimalDigits b).length ≤ Config.memSize := by
    rw [length_decimalDigits]
    decide
  exact read_storeBytes_indirect hm hlen hk

/-- Settles O31: a block store of the three digits, each of which fits in a byte. -/
theorem decimalDigitsStored : Obligations.DecimalDigitsStored := by
  intro x s hm
  have hbyte : (s.readV x).toNat < 256 := (s.readV x).isLt
  refine ⟨s.storeBytes (s.indirect 0) (decimalDigits (s.readV x)), rfl, ?hundreds, ?tens, ?ones, ?outside, rfl,
    State.wf_storeBytes _ _ hm⟩
  case hundreds =>
    rw [State.read_storeBytes_decimalDigits _ hm (by decide)]
    exact toNat_ofNat_byte (by omega)
  case tens =>
    rw [State.read_storeBytes_decimalDigits _ hm (by decide)]
    exact toNat_ofNat_byte (by omega)
  case ones =>
    rw [State.read_storeBytes_decimalDigits _ hm (by decide)]
    exact toNat_ofNat_byte (by omega)
  case outside => exact State.storeBytes_keptOutside (s.indirect 0) (decimalDigits (s.readV x)) hm

/-! ## ANNN, FX1E, FX29 (R191-R193) -/

/-- The sum of FX1E wraps at 2^16. -/
theorem toNat_add_byteAsWord (w : Word) (b : Byte) : (w + byteAsWord b).toNat = (w.toNat + b.toNat) % 65536 := by
  rw [BitVec.toNat_add, toNat_byteAsWord]

/-- Every glyph address fits in I. -/
theorem toNat_glyphAddress (b : Byte) : (glyphAddress b).toNat = 0x050 + 5 * (b.toNat % 16) := by
  have hfits : Config.fontBase + 5 * lowNibble b < 2 ^ 16 := by
    simp only [Config.fontBase, lowNibble]
    omega
  rw [glyphAddress, BitVec.toNat_ofNat, Nat.mod_eq_of_lt hfits]
  rfl

/-- The completion of a load of I. -/
theorem completes_of_exec_setI {i : Instr} {s : State} {w : Word} {n : Nat} (h : exec i s = .next (s.setI w))
    (hw : w.toNat = n) : ∃ t, exec i s = .next t ∧ t.i.toNat = n ∧ t = { s with i := t.i } ∧ SameMemory s t :=
  ⟨s.setI w, h, hw, rfl, fun _ => rfl⟩

/-- Settles O30: each of the three writes I alone. -/
theorem indexRegisterLoads : Obligations.IndexRegisterLoads := fun x nnn s =>
  ⟨completes_of_exec_setI rfl (toNat_addressOperand nnn), completes_of_exec_setI rfl (toNat_add_byteAsWord s.i (s.readV x)),
    completes_of_exec_setI rfl (toNat_glyphAddress (s.readV x))⟩

/-! ## FX65 (R196) -/

/-- Reading at an address reduced modulo 4096 is reading at the address (R62). -/
theorem Memory.read_mod_memSize (m : Memory) (a : Nat) : Memory.read m (a % 4096) = Memory.read m a :=
  congrArg (Memory.readCell m) (decodeAddress_idem a)

/-- Settles O33: the registers up to X are read from memory, those above X are kept. -/
theorem registersLoaded : Obligations.RegistersLoaded := by
  intro x s
  refine ⟨s.loadRegs x, rfl, fun k hk => ?loaded, fun k hk => ?kept, s.loadRegs_eq x, fun _ => rfl⟩
  case loaded => rw [State.readV_loadRegs, if_pos hk, Memory.read_mod_memSize]
  case kept => rw [State.readV_loadRegs, if_neg hk.not_ge]

end Sys2Proof.Machine
end

section
/-! PROOFS of the family 44_display: the buffer cleared, and a sprite drawn, pixel by pixel (R210-R212). -/

namespace Sys2Proof.Machine

/-- Settles O37: every pixel of the blank buffer is off. -/
theorem clsClearsEveryPixel : Obligations.ClsClearsEveryPixel := fun s =>
  ⟨{ s with fb := Display.blank, dirty := true }, rfl, Display.pixel_blank, rfl, rfl, fun _ => rfl⟩

/-! ## What a part of a drawing does to each pixel -/

/-- From `d` to `d'` exactly the pixels of `P` are inverted, once each, and a collision is recorded for those that were on. -/
structure Drawing.Inverts (P : Fin 64 → Fin 32 → Prop) (d d' : Drawing) : Prop where
  inside : ∀ {px py}, P px py → Display.pixel d'.fb px py = !Display.pixel d.fb px py
  outside : ∀ {px py}, ¬ P px py → Display.pixel d'.fb px py = Display.pixel d.fb px py
  collide_iff : d'.collide = true ↔ d.collide = true ∨ ∃ px py, P px py ∧ Display.pixel d.fb px py = true

namespace Drawing.Inverts

variable {P Q R : Fin 64 → Fin 32 → Prop} {d d' d'' : Drawing}

/-- Nothing drawn inverts nothing. -/
theorem of_empty (hP : ∀ px py, ¬ P px py) (d : Drawing) : Inverts P d d where
  inside h := absurd h (hP _ _)
  outside _ := rfl
  collide_iff := by simp [hP]

/-- A plotted bit inverts its pixel. -/
theorem plot (d : Drawing) (x : Fin 64) (y : Fin 32) : Inverts (fun px py => px = x ∧ py = y) d (d.plot x y) where
  inside h := by rw [fb_plot, Display.pixel_invert, if_pos h, h.1, h.2]
  outside h := by rw [fb_plot, Display.pixel_invert, if_neg h]
  collide_iff := by simp

/-- Two parts with no pixel in common, drawn one after the other, invert the pixels of both: the second part still finds its
pixels as they were at the start. -/
theorem trans (hP : Inverts P d d') (hQ : Inverts Q d' d'') (hdisj : ∀ px py, P px py → ¬ Q px py)
    (hR : ∀ px py, R px py ↔ P px py ∨ Q px py) : Inverts R d d'' where
  inside {px py} h := by
    rcases (hR px py).1 h with hp | hq
    · rw [hQ.outside (hdisj px py hp), hP.inside hp]
    · rw [hQ.inside hq, hP.outside fun hp => hdisj px py hp hq]
  outside {px py} h := by
    rw [hR, not_or] at h
    rw [hQ.outside h.2, hP.outside h.1]
  collide_iff := by
    have hkept : ∀ px py, (Q px py ∧ Display.pixel d'.fb px py = true) ↔ (Q px py ∧ Display.pixel d.fb px py = true) :=
      fun px py => and_congr_right fun hq => by rw [hP.outside fun hp => hdisj px py hp hq]
    simp only [hQ.collide_iff, hP.collide_iff, hkept, hR, or_and_right, exists_or, or_assoc]

end Drawing.Inverts

/-! ## One row -/

/-- The first `k` columns of a row, drawn from the left. -/
def Drawing.columns (d : Drawing) (x0 y : Nat) (row : Byte) : Nat → Drawing
  | 0 => d
  | k + 1 =>
    if spriteBit row k then (d.columns x0 y row k).plot (Fin.ofNat 64 (x0 + k)) (Fin.ofNat 32 y) else d.columns x0 y row k

/-- A row is its eight columns. -/
theorem Drawing.row_eq_columns (d : Drawing) (x0 y : Nat) (row : Byte) : d.row x0 y row = d.columns x0 y row 8 := rfl

/-- The pixel lies under a set bit in the first `k` columns of a row drawn at (x0, y), wrapping (R211). -/
def RowCovers (row : Byte) (x0 y k : Nat) (px : Fin 64) (py : Fin 32) : Prop :=
  ∃ c < k, spriteBit row c = true ∧ px.val = (x0 + c) % 64 ∧ py.val = y % 32

theorem rowCovers_succ (row : Byte) (x0 y k : Nat) (px : Fin 64) (py : Fin 32) :
    RowCovers row x0 y (k + 1) px py ↔ RowCovers row x0 y k px py ∨
      spriteBit row k = true ∧ px = Fin.ofNat 64 (x0 + k) ∧ py = Fin.ofNat 32 y := by
  simp only [RowCovers, Nat.exists_lt_succ_right, Fin.ext_iff, Fin.val_ofNat]

/-- Up to 64 columns, no two columns of a row meet in a pixel, so the row inverts each pixel it covers. -/
theorem Drawing.columns_inverts (d : Drawing) (x0 y : Nat) (row : Byte) {k : Nat} (hk : k ≤ 64) :
    Inverts (RowCovers row x0 y k) d (d.columns x0 y row k) := by
  induction k with
  | zero => exact .of_empty (by simp [RowCovers]) d
  | succ k ih =>
    have hleft := ih (Nat.le_of_succ_le hk)
    rw [columns]
    split
    next hbit =>
      refine hleft.trans (.plot _ _ _) ?disjoint fun px py => by rw [rowCovers_succ, hbit, eq_self, true_and]
      case disjoint =>
        rintro px py ⟨c, hc, -, hx, -⟩ ⟨rfl, -⟩
        rw [Fin.val_ofNat] at hx
        omega
    next hbit =>
      have hsame : RowCovers row x0 y (k + 1) = RowCovers row x0 y k := by
        funext px py
        simp [rowCovers_succ, hbit]
      rwa [hsame]

/-! ## The sprite -/

/-- A sprite covers what its top row and the sprite below it cover. -/
theorem spriteCovers_succ (m : Memory) (base n x0 y0 : Nat) (px : Fin 64) (py : Fin 32) :
    SpriteCovers m base (n + 1) x0 y0 px py ↔
      RowCovers (Memory.read m base) x0 y0 8 px py ∨ SpriteCovers m (base + 1) n x0 (y0 + 1) px py := by
  constructor
  · rintro ⟨r, c, hr, hc, hbit, hx, hy⟩
    cases r with
    | zero => exact .inl ⟨c, hc, hbit, hx, hy⟩
    | succ r =>
      rw [Nat.add_comm r, ← Nat.add_assoc] at hbit hy
      exact .inr ⟨r, c, by omega, hc, hbit, hx, hy⟩
  · rintro (⟨c, hc, hbit, hx, hy⟩ | ⟨r, c, hr, hc, hbit, hx, hy⟩)
    · exact ⟨0, c, n.succ_pos, hc, hbit, hx, hy⟩
    · rw [Nat.add_assoc, Nat.add_comm 1] at hbit hy
      exact ⟨r + 1, c, Nat.succ_lt_succ hr, hc, hbit, hx, hy⟩

/-- Up to 32 rows, no two rows meet in a pixel, so the sprite inverts each pixel it covers (R212). -/
theorem Drawing.rows_inverts (d : Drawing) (m : Memory) (base x0 y0 : Nat) {n : Nat} (hn : n ≤ 32) :
    Inverts (SpriteCovers m base n x0 y0) d (d.rows x0 y0 (Memory.readBytes m base n)) := by
  induction n generalizing d base y0 with
  | zero => exact .of_empty (by simp [SpriteCovers]) d
  | succ n ih =>
    have htop : Inverts (RowCovers (Memory.read m base) x0 y0 8) d (d.row x0 y0 (Memory.read m base)) :=
      d.columns_inverts x0 y0 _ (by decide)
    have hbelow := ih (d.row x0 y0 (Memory.read m base)) (base + 1) (y0 + 1) (Nat.le_of_succ_le hn)
    refine htop.trans hbelow ?disjoint (spriteCovers_succ m base n x0 y0)
    case disjoint =>
      rintro px py ⟨-, -, -, -, hy⟩ ⟨r, -, hr, -, -, -, hy'⟩
      omega

/-! ## DXYN (R212) -/

/-- The drawing DXYN makes: the rows at I at (VX, VY), on the buffer as it is, with no collision yet. -/
def State.spriteDrawing (s : State) (x y : Reg) (n : Nat) : Drawing :=
  Drawing.rows ⟨s.fb, false⟩ (s.readV x).toNat (s.readV y).toNat (Memory.readBytes s.mem s.i.toNat n)

theorem State.spriteDrawing_inverts (s : State) (x y : Reg) (n : Nibble) :
    Drawing.Inverts (SpriteCovers s.mem s.i.toNat n.toNat (s.readV x).toNat (s.readV y).toNat) ⟨s.fb, false⟩
      (s.spriteDrawing x y n.toNat) :=
  Drawing.rows_inverts _ _ _ _ _ (n.isLt.le.trans (by decide))

theorem State.fb_drawSprite (s : State) (x y : Reg) (n : Nat) : (s.drawSprite x y n).fb = (s.spriteDrawing x y n).fb := rfl

theorem State.readV_vf_drawSprite (s : State) (x y : Reg) (n : Nat) :
    (s.drawSprite x y n).readV vf = flagByte (s.spriteDrawing x y n).collide :=
  State.readV_writeV_same _ vf _

/-- A sprite's drawing collides exactly when it covers a pixel that was on. -/
theorem State.collide_spriteDrawing (s : State) (x y : Reg) (n : Nibble) :
    (s.spriteDrawing x y n.toNat).collide = true ↔
      ∃ px py, SpriteCovers s.mem s.i.toNat n.toNat (s.readV x).toNat (s.readV y).toNat px py ∧
        Display.pixel s.fb px py = true := by
  simpa using (s.spriteDrawing_inverts x y n).collide_iff

/-- Settles O38: the loop inverts each covered pixel once, and VF is its collision. -/
theorem drwXorsSpriteAndReportsCollision : Obligations.DrwXorsSpriteAndReportsCollision := by
  intro x y n s
  have hdraw := s.spriteDrawing_inverts x y n
  refine ⟨s.drawSprite x y n.toNat, rfl, fun px py => ⟨hdraw.inside, hdraw.outside⟩, fun hon => ?collision,
    fun hoff => ?noCollision, fun r hr => s.readV_drawSprite x y r n.toNat hr, rfl, fun _ => rfl,
    s.drawSprite_eq x y n.toNat⟩
  case collision => exact (s.readV_vf_drawSprite x y _).trans (congrArg flagByte ((s.collide_spriteDrawing x y n).2 hon))
  case noCollision =>
    rw [← s.collide_spriteDrawing x y n, Bool.not_eq_true] at hoff
    exact (s.readV_vf_drawSprite x y _).trans (congrArg flagByte hoff)

end Sys2Proof.Machine
end

section
/-! PROOFS of the family 45_keypad_timer: skips on a key, and transfers between a V register and the timers (R231, R232,
R237-R239). -/

namespace Sys2Proof.Machine

/-! ## Skips on a key (R231, R232) -/

/-- Only the low four bits of the byte select the key. -/
theorem State.keyPressed_eq (s : State) (b : Byte) : s.keyPressed b = s.keys.getLsbD (b.toNat % 16) := rfl

/-- A skip on a pressed key adds 2 to PC exactly when the key's bit is 1. -/
theorem State.skipIf_keyPressed (s : State) (b : Byte) :
    s.skipIf (s.keyPressed b) = { s with pc := if s.keys.getLsbD (b.toNat % 16) = true then s.pc + 2 else s.pc } := by
  rw [skipIf_eq, setPc, keyPressed_eq]

/-- A skip on a released key adds 2 to PC exactly when the key's bit is 0. -/
theorem State.skipIf_not_keyPressed (s : State) (b : Byte) :
    s.skipIf (!s.keyPressed b) = { s with pc := if s.keys.getLsbD (b.toNat % 16) = true then s.pc else s.pc + 2 } := by
  rw [skipIf_eq, setPc, keyPressed_eq]
  simp only [Bool.not_eq_true', ← Bool.not_eq_true, ite_not]

/-- Settles O41: one skips on the pressed key, the other on the released key. -/
theorem keySkipsTestLowNibbleKey : Obligations.KeySkipsTestLowNibbleKey := fun x s =>
  ⟨congrArg Host.Outcome.next (s.skipIf_keyPressed (s.readV x)),
    congrArg Host.Outcome.next (s.skipIf_not_keyPressed (s.readV x))⟩

/-! ## Transfers between VX and the timers (R237-R239) -/

/-- Settles O44: FX07 is a register write, FX15 and FX18 each write one timer, and SOUND_ON follows ST. -/
theorem timerMoves : Obligations.TimerMoves := by
  intro x s
  refine ⟨⟨s.writeV x s.dt, rfl, s.readV_writeV_same x s.dt, s.writeV_onlyRegisters x s.dt⟩,
    ⟨{ s with dt := s.readV x }, rfl, rfl, rfl, fun _ => rfl⟩,
    ⟨{ s with st := s.readV x }, rfl, rfl, ?soundOn, rfl, fun _ => rfl⟩⟩
  case soundOn => exact State.soundOn_iff { s with st := s.readV x }

end Sys2Proof.Machine
end

section
/-! PROOFS of the family 60_exceptions: stack faults (R252), the timers under Tick (R265, R267), and the host's inputs
(R271, R272, R274). -/

namespace Sys2Proof.Machine

/-! ## Ticks (R265, R267) -/

/-- Settles O45: by induction on the number of Ticks, each of which takes 1 from both timers, floored at 0. -/
theorem ticksCountTimersDown : Obligations.TicksCountTimersDown := by
  intro n s
  induction n generalizing s with
  | zero => exact ⟨s, rfl, rfl, rfl, rfl⟩
  | succ n ih =>
    obtain ⟨t, hrun, hdt, hst, hframe⟩ := ih (tick s)
    have hschedule : runSchedule (List.replicate (n + 1) .tick) s = .next t := (runSchedule_cons _ rfl).trans hrun
    have htimers : (tick s).dt.toNat = s.dt.toNat - 1 ∧ (tick s).st.toNat = s.st.toNat - 1 :=
      ⟨toNat_tickTimer s.dt, toNat_tickTimer s.st⟩
    exact ⟨t, hschedule, by omega, by omega, hframe⟩

/-! ## Stack faults (R252) -/

/-- A Step in RUN executes the decoded instruction with PC already advanced (R122). -/
theorem step_of_instr {s : State} {i : Instr} (hrun : s.mode = .run) (hi : decode s.fetchWord = .instr i) :
    step s = exec i s.advancePc := by
  rw [step_of_run hrun, executeWord_instr hi]

/-- A fault raised by the executing instruction records that instruction's own address, and PC stays past it. -/
theorem State.raiseFault_advancePc (s : State) (code : FaultCode) :
    s.advancePc.raiseFault code = { s with pc := s.pc + 2, faultCode := code, faultPc := s.pc, mode := .halted } := by
  have hipc : s.advancePc.ipc = s.pc := s.ipc_setPc_add_two s.pc
  rw [raiseFault, hipc]
  rfl

/-- Settles O27: 00EE on an empty stack and 2NNN on a full one enter the fault with PC already advanced. -/
theorem stackFaultIsPrecise : Obligations.StackFaultIsPrecise := by
  intro s hrun
  constructor
  · intro hret hempty
    have hfault : s.advancePc.popPc = s.advancePc.raiseFault .stackUnderflow := State.popPc_underflow hempty
    rw [s.raiseFault_advancePc] at hfault
    exact ⟨_, (step_of_instr hrun hret).trans (congrArg Host.Outcome.next hfault), rfl, rfl, rfl, rfl⟩
  · intro nnn hcall hfull
    have hfault : s.advancePc.callWith Config.stackDepth (addressOperand nnn) = s.advancePc.raiseFault .stackOverflow :=
      State.callWith_overflow _ hfull.ge
    rw [s.raiseFault_advancePc] at hfault
    exact ⟨_, (step_of_instr hrun hcall).trans (congrArg Host.Outcome.next hfault), rfl, rfl, rfl, rfl⟩

/-! ## The host's inputs (R271, R272, R274) -/

/-- Settles O46: SetKeys and AckDisplay each write one field, and KeyPress either latches its key or is discarded. -/
theorem hostInputsChangeOnlyTheirState : Obligations.HostInputsChangeOnlyTheirState := fun _ k _ =>
  ⟨rfl, rfl, fun hwait hempty => congrArg Host.Outcome.next (keyPress_latched k hwait hempty),
    fun hdiscard => congrArg Host.Outcome.next (keyPress_discarded k hdiscard)⟩

end Sys2Proof.Machine
end

section
/-! PROOFS of the family 70_reset_and_hazards: what Load leaves in memory and in the registers (R290, R292), the image it
rejects (R291), and power-on as the Load of an empty image (R296). -/

namespace Sys2Proof.Machine

/-! ## Images that are too long (R291) -/

/-- Settles O49: Load checks the length of the image first. -/
theorem longImageIsRejected : Obligations.LongImageIsRejected := fun font _ s hlong => loadWith_tooLarge font s hlong

/-! ## Memory after Load (R290, R292) -/

/-- A block that ends within the address space does not wrap: the addresses from `a` on hold its bytes, and every other
address keeps its own. -/
theorem Memory.some_read_writeBytes {m : Memory} {a b : Nat} {vs : List Byte} (hm : Memory.wf m = true)
    (hend : a + vs.length ≤ Config.memSize) (hb : b < Config.memSize) :
    some (Memory.read (Memory.writeBytes m a vs) b) =
      if a ≤ b ∧ b < a + vs.length then vs[b - a]? else some (Memory.read m b) := by
  split
  case isTrue h =>
    obtain ⟨k, rfl⟩ := Nat.exists_eq_add_of_le h.1
    have hk : k < vs.length := by omega
    rw [Memory.read_writeBytes_inside hm (by omega) hk, Nat.add_sub_cancel_left, List.getElem?_eq_getElem hk]
  case isFalse h =>
    rw [Memory.read_writeBytes_outside hm]
    intro k hk
    rw [decodeAddress, decodeAddress, Nat.mod_eq_of_lt hb, Nat.mod_eq_of_lt (by omega)]
    omega

/-- The empty memory reads 0 outside the font. -/
theorem Memory.read_nil_of_not_font {a : Nat} (ha : a < Config.memSize)
    (h : ¬ (Config.fontBase ≤ a ∧ a < Config.fontBase + Config.fontSize)) : Memory.read [] a = 0 := by
  rw [Memory.read, decodeAddress, Nat.mod_eq_of_lt ha, Memory.readCell, Memory.background, if_neg h]

/-- An image that fits lies past the font, so after Load the font, the image and 0 do not overlap. -/
theorem some_read_loadedMemory {font image : List Byte} {a : Nat} (hfont : font.length = Config.fontSize)
    (himage : image.length ≤ Config.maxImage) (ha : a < Config.memSize) :
    some (Memory.read (loadedMemory font image) a) =
      if Config.fontBase ≤ a ∧ a < Config.fontBase + Config.fontSize then font[a - Config.fontBase]?
      else if Config.progBase ≤ a ∧ a < Config.progBase + image.length then image[a - Config.progBase]?
      else some 0 := by
  have hfontEnd : Config.fontBase + font.length ≤ Config.memSize := hfont ▸ by decide
  have himageEnd : Config.progBase + image.length ≤ Config.memSize := Nat.add_le_add_left himage Config.progBase
  have hapart : Config.fontBase + Config.fontSize ≤ Config.progBase := by decide
  rw [loadedMemory, Memory.some_read_writeBytes (Memory.wf_writeBytes _ _ rfl) himageEnd ha,
    Memory.some_read_writeBytes rfl hfontEnd ha, hfont]
  by_cases hin : Config.fontBase ≤ a ∧ a < Config.fontBase + Config.fontSize
  · rw [if_neg (by omega), if_pos hin, if_pos hin]
  · rw [if_neg hin, if_neg hin, Memory.read_nil_of_not_font ha hin]

/-! ## The registers of the reset state (R290) -/

@[simp] theorem State.readV_reset (r : Reg) : State.reset.readV r = 0 := Vector.getElem_replicate r.isLt

theorem State.getElem_stack_reset (j : Fin 16) : State.reset.stack[j] = 0 := Vector.getElem_replicate j.isLt

@[simp] theorem State.pixel_fb_reset (px : Fin 64) (py : Fin 32) : Display.pixel State.reset.fb px py = false :=
  Display.pixel_blank px py

/-- Settles O48: a Load that fits gives the registers of reset with the memory above, and any other is rejected. -/
theorem loadReinitialisesEverything : Obligations.LoadReinitialisesEverything := by
  intro font image s hfont
  refine ⟨longImageIsRejected font image s, fun hfits => ⟨_, loadWith_ok font s hfits, State.readV_reset, rfl, rfl, rfl,
    State.getElem_stack_reset, rfl, rfl, State.pixel_fb_reset, rfl, rfl, rfl, rfl, rfl, rfl, rfl, rfl, rfl, rfl, rfl,
    Memory.wf_loadedMemory font image, fun a ha => ?memory⟩⟩
  case memory => exact some_read_loadedMemory (beq_iff_eq.1 hfont) hfits ha

/-! ## Power-on (R296) -/

/-- The hardware's font is what the empty memory already reads, so Load of an empty image lists nothing. -/
theorem loadedMemory_font_nil : loadedMemory Config.font [] = [] := by decide

theorem load_nil (s : State) : load [] s = ({ State.reset with keys := s.keys, draws := s.draws }, .ok) := by
  rw [load, loadWith_ok Config.font s (Nat.zero_le _), loadedMemory_font_nil]
  rfl

/-- Settles O50: Load of an empty image gives reset's memory and registers, and keeps KEYS and the draw number. -/
theorem powerOnIsLoadOfEmptyImage : Obligations.PowerOnIsLoadOfEmptyImage :=
  ⟨fun s => ⟨s.draws, load_nil s⟩, rfl, load_nil State.reset⟩

end Sys2Proof.Machine
end

section
/-! PROOFS of the family other: decoding and encoding as inverses, which instruction may write what, what a Step may depend
on, what is stored and read back, the key wait, the invariant of the machine, and the ends of a run. -/

namespace Sys2Proof

/-! ## Decoding and encoding (30_encoding.md sections 4 and 5) -/

/-- The word of an instruction decodes to it: the family, and where the format has one the fixed N or NN, select the arm of
the decoder, and the other fields are the operands. -/
theorem decode_encode (i : Instr) : decode (encode i) = .instr i := by
  cases i with
  | cls | ret => rfl
  | jp | call | ldI | jpV0 => simp [encode, decode]
  | seImm | sneImm | ldImm | addImm | rnd => simp [encode, decode]
  | drw => simp [encode, decode]
  | seReg => simp [encode, decode, decodeFamily5]
  | sneReg => simp [encode, decode, decodeFamily9]
  | mov | or | and | xor | add | sub | shr | subn | shl => simp [encode, decode, decodeFamily8]
  | skp | sknp => simp [encode, decode, decodeFamilyE]
  | ldXDt | ldXK | ldDtX | ldStX | addIX | ldFX | ldBX | stRegs | ldRegs => simp [encode, decode, decodeFamilyF]

/-- Decoding the two bytes of a known word leaves the bytes after them (R90, R98). -/
theorem decodeBytes_high_low {op : Word} {i : Instr} (h : decode op = .instr i) (rest : List Byte) :
    decodeBytes (highByte op :: lowByte op :: rest) = .instr i rest := by
  rw [decodeBytes, wordOfBytes_high_low, h]

/-- Settles O1: the bytes and the table's number of an encoded instruction both give its word, which decodes to it. -/
theorem decodingInvertsEncoding : Obligations.DecodingInvertsEncoding := by
  intro i rest _
  have hdecode : decode (encode i) = .instr i := decode_encode i
  refine ⟨hdecode, decodeBytes_high_low hdecode rest, ?tableWord⟩
  case tableWord => rw [decodeTableWord, Machine.tableWord_encode, decodeBytes_high_low hdecode]

/-- Settles O2: a decoded word is its fields laid side by side, and the operand types bound the operands. -/
theorem encodingInvertsDecoding : Obligations.EncodingInvertsDecoding :=
  fun _ i h => ⟨i.wellFormed_all, encode_of_decode h⟩

/-! ## The unknown spaces (30_encoding.md section 6) -/

theorem toNat_fieldC (op : Word) : (fieldC op).toNat = op.toNat / 4096 := by
  have hlt : op.toNat < 65536 := op.isLt
  rw [fieldC, BitVec.extractLsb'_toNat, Nat.shiftRight_eq_div_pow]
  omega

theorem toNat_fieldN (op : Word) : (fieldN op).toNat = op.toNat % 16 := BitVec.extractLsb'_toNat ..

theorem toNat_fieldNN (op : Word) : (fieldNN op).toNat = op.toNat % 256 := BitVec.extractLsb'_toNat ..

section
variable {op : Word}

theorem decodeFamily0_rejected_iff :
    (∃ why, decodeFamily0 op = .rejected why) ↔ op.toNat ≠ 0x00E0 ∧ op.toNat ≠ 0x00EE := by
  simp only [decodeFamily0, ← BitVec.toNat_inj]
  split_ifs <;> simp_all

theorem decodeFamily5_rejected_iff : (∃ why, decodeFamily5 op = .rejected why) ↔ op.toNat % 16 ≠ 0 := by
  simp only [decodeFamily5, ← BitVec.toNat_inj, toNat_fieldN]
  split_ifs <;> simp_all

theorem decodeFamily8_rejected_iff :
    (∃ why, decodeFamily8 op = .rejected why) ↔ op.toNat % 16 ∈ [0x8, 0x9, 0xA, 0xB, 0xC, 0xD, 0xF] := by
  have hlt : op.toNat % 16 < 16 := Nat.mod_lt _ (by decide)
  rw [decodeFamily8, toNat_fieldN]
  generalize op.toNat % 16 = n at hlt
  interval_cases n <;> simp

theorem decodeFamily9_rejected_iff : (∃ why, decodeFamily9 op = .rejected why) ↔ op.toNat % 16 ≠ 0 := by
  simp only [decodeFamily9, ← BitVec.toNat_inj, toNat_fieldN]
  split_ifs <;> simp_all

theorem decodeFamilyE_rejected_iff :
    (∃ why, decodeFamilyE op = .rejected why) ↔ op.toNat % 256 ∉ [0x9E, 0xA1] := by
  simp only [decodeFamilyE, ← BitVec.toNat_inj, toNat_fieldNN]
  split_ifs <;> simp_all

theorem decodeFamilyF_rejected_iff :
    (∃ why, decodeFamilyF op = .rejected why) ↔
      op.toNat % 256 ∉ [0x07, 0x0A, 0x15, 0x18, 0x1E, 0x29, 0x33, 0x55, 0x65] := by
  simp only [decodeFamilyF, ← BitVec.toNat_inj, toNat_fieldNN]
  split_ifs <;> simp_all

end

/-- Settles O4: a family with one row for all its words rejects none, and each of the other six rejects its own space. -/
theorem unknownWordsByFamily : Obligations.UnknownWordsByFamily := by
  intro op
  have hfamily : op.toNat / 4096 < 16 := Nat.div_lt_of_lt_mul op.isLt
  rw [decode, toNat_fieldC]
  generalize op.toNat / 4096 = c at hfamily
  interval_cases c <;>
    simp [decodeFamily0_rejected_iff, decodeFamily5_rejected_iff, decodeFamily8_rejected_iff, decodeFamily9_rejected_iff,
      decodeFamilyE_rejected_iff, decodeFamilyF_rejected_iff]

/-- Settles O5: the decoder evaluated on each word. -/
theorem specWordsDecode : Obligations.SpecWordsDecode := by
  unfold Obligations.SpecWordsDecode
  decide

end Sys2Proof

namespace Sys2Proof.Machine

/-! ## The V registers an instruction writes (10_state.md R22) -/

/-- FX65 writes the registers up to X. -/
theorem mem_writtenRegs_ldRegs {x r : Reg} : r ∈ writtenRegs (.ldRegs x) ↔ r ≤ x := by
  simp [writtenRegs]

/-- Execution keeps every V register outside the instruction's row of R22. -/
theorem exec_readV_of_not_written {i : Instr} {s t : State} {r : Reg} (h : exec i s = .next t) (hr : r ∉ writtenRegs i) :
    t.readV r = s.readV r := by
  cases i with
  | ldImm | addImm | rnd | ldXDt | mov | or | and | xor =>
    cases h
    exact s.readV_writeV_other (List.ne_of_not_mem_cons hr) _
  | add | sub | shr | subn | shl =>
    cases h
    obtain ⟨hkept, -⟩ := s.writeResultAndFlag_onlyRegisters _ _ _
    exact hkept r hr
  | drw x y n => cases h; exact s.readV_drawSprite x y r n.toNat (List.ne_of_not_mem_cons hr)
  | ldRegs x =>
    obtain rfl : s.loadRegs x = t := Host.Outcome.next.inj h
    rw [State.readV_loadRegs, if_neg (mem_writtenRegs_ldRegs.not.1 hr)]
  | ret => cases h; rw [State.popPc_frame]; rfl
  | call => cases h; rw [State.callWith_frame s (by decide)]; rfl
  | seImm | sneImm | seReg | sneReg | skp | sknp => cases h; rw [State.skipIf_eq, State.setPc_readV]
  | _ => cases h; rfl

/-- Settles O14: register by register for an instruction, and the record of an unknown opcode is no register. -/
theorem onlyNamedRegistersWritten : Obligations.OnlyNamedRegistersWritten :=
  ⟨fun _ _ _ h _ hr => exec_readV_of_not_written h hr, fun op s r => s.recordUnknown_readV op r⟩

/-! ## The other state an instruction writes (10_state.md R27; 20_memory.md R68; 44_display.md R213) -/

/-- Settles O15: the frame of the meaning's shared operation leaves every field that the instruction is not named for. -/
theorem onlyNamedInstructionsWriteState : Obligations.OnlyNamedInstructionsWriteState := by
  intro i s t h
  cases i with
  | ret => cases h; rw [State.popPc_frame]; simp
  | call => cases h; rw [State.callWith_frame s (by decide)]; simp
  | seImm | sneImm | seReg | sneReg | skp | sknp => cases h; rw [State.skipIf_eq]; simp
  | add | sub | shr | subn | shl => cases h; rw [State.writeResultAndFlag_eq]; simp
  | drw => cases h; rw [State.drawSprite_eq]; simp
  | ldRegs x =>
    obtain rfl : s.loadRegs x = t := Host.Outcome.next.inj h
    rw [State.loadRegs_eq]
    simp
  | rnd => cases h; simp [State.writeDraw]
  | _ => cases h; simp

/-! ## The unknown-opcode record (10_state.md R40) -/

/-- Settles O16: of the transactions only Load and a Step write the record, and of the Steps only one on an unknown word. -/
theorem unknownRecordChangesOnlyByUnknownOrLoad : Obligations.UnknownRecordChangesOnlyByUnknownOrLoad := by
  intro tr s t h
  obtain ⟨image, rfl, rfl⟩ | ⟨rfl, hstep⟩ | ⟨-, rfl⟩ | ⟨mask, -, rfl⟩ | ⟨k, -, rfl⟩ | ⟨-, rfl⟩ := transact_cases h
  · rw [load]
    rcases Nat.lt_or_ge Config.maxImage image.length with hlong | hfits
    · rw [loadWith_tooLarge _ _ hlong]; exact .inl ⟨rfl, rfl, rfl⟩
    · rw [loadWith_ok _ _ hfits]; exact .inr (.inl ⟨⟨image, rfl, hfits⟩, rfl, rfl, rfl⟩)
  · obtain ⟨-, i, -, hexec⟩ | ⟨hrun, hwhy, rfl⟩ | ⟨-, rfl⟩ | ⟨-, rfl⟩ := step_cases hstep
    · obtain ⟨-, -, -, -, -, -, -, -, -, -, -, -, hvalid, hop, hpc⟩ := onlyNamedInstructionsWriteState i _ t hexec
      exact .inl ⟨hvalid, hop, hpc⟩
    · rw [State.recordUnknown_advancePc]
      exact .inr (.inr ⟨rfl, hrun, hwhy, rfl, rfl, rfl⟩)
    · rw [State.resumeWait_frame]; exact .inl ⟨rfl, rfl, rfl⟩
    · exact .inl ⟨rfl, rfl, rfl⟩
  · exact .inl ⟨rfl, rfl, rfl⟩
  · exact .inl ⟨rfl, rfl, rfl⟩
  · rw [keyPress]; split <;> exact .inl ⟨rfl, rfl, rfl⟩
  · exact .inl ⟨rfl, rfl, rfl⟩

/-! ## SOUND_ON (60_exceptions.md R268) -/

theorem State.soundOn_eq {s t : State} (h : t.st = s.st) : t.soundOn = s.soundOn :=
  congrArg (· != 0) h

/-- Settles O47: of the transactions only Tick, Load and a Step can write ST, and a Step writes it only by FX18. -/
theorem soundOnChangesOnlyWithSoundTimer : Obligations.SoundOnChangesOnlyWithSoundTimer := by
  refine ⟨State.soundOn_iff, fun tr s t h hsound => ?_⟩
  have hst : t.st ≠ s.st := fun hst => hsound (State.soundOn_eq hst)
  obtain ⟨image, rfl, -⟩ | ⟨rfl, hstep⟩ | ⟨rfl, -⟩ | ⟨mask, -, rfl⟩ | ⟨k, -, rfl⟩ | ⟨-, rfl⟩ := transact_cases h
  · exact .inr (.inl ⟨image, rfl⟩)
  · obtain ⟨-, -, hkept | ⟨hrun, x, hx, -⟩⟩ := stepLeavesKeysAndTimers s t hstep
    · exact absurd hkept hst
    · exact .inr (.inr ⟨rfl, hrun, x, hx⟩)
  · exact .inl rfl
  · exact absurd rfl hst
  · rw [keyPress] at hst
    split at hst <;> exact absurd rfl hst
  · exact absurd rfl hst

/-! ## The draw (40_cycle.md R130, 42_alu.md R172) -/

/-- `s` at another draw number. -/
def State.withDraws (s : State) (n : Nat) : State := { s with draws := n }

theorem State.skipIf_withDraws (s : State) (c : Bool) (n : Nat) :
    (s.withDraws n).skipIf c = (s.skipIf c).withDraws n := by
  cases c <;> rfl

theorem State.popPc_withDraws (s : State) (n : Nat) : (s.withDraws n).popPc = s.popPc.withDraws n := by
  rcases Nat.eq_zero_or_pos s.sp.val with h | h
  · rw [popPc_underflow h, popPc_underflow (s := s.withDraws n) h]; rfl
  · rw [popPc_pop h, popPc_pop (s := s.withDraws n) h]; rfl

theorem State.callWith_withDraws (s : State) {depth : Nat} (hd : depth ≤ 16) (target : Word) (n : Nat) :
    (s.withDraws n).callWith depth target = (s.callWith depth target).withDraws n := by
  rcases Nat.lt_or_ge s.sp.val depth with h | h
  · rw [callWith_push target h hd, callWith_push (s := s.withDraws n) target h hd]; rfl
  · rw [callWith_overflow target h, callWith_overflow (s := s.withDraws n) target h]; rfl

theorem State.resumeWait_withDraws (s : State) (n : Nat) : (s.withDraws n).resumeWait = s.resumeWait.withDraws n := by
  cases hv : s.kevValid with
  | false => rw [resumeWait_empty hv, resumeWait_empty (s := s.withDraws n) hv]
  | true => rw [resumeWait_event hv, resumeWait_event (s := s.withDraws n) hv]; rfl

/-- Every instruction but CXNN commutes with a change of the draw number. -/
theorem exec_withDraws {i : Instr} {s t : State} (hrnd : ∀ x nn, i ≠ .rnd x nn) (h : exec i s = .next t) (n : Nat) :
    exec i (s.withDraws n) = .next (t.withDraws n) := by
  cases i with
  | rnd x nn => exact absurd rfl (hrnd x nn)
  | ret => cases h; exact congrArg Host.Outcome.next (s.popPc_withDraws n)
  | call nnn => cases h; exact congrArg Host.Outcome.next (s.callWith_withDraws (by decide) _ n)
  | seImm | sneImm | seReg | sneReg | skp | sknp =>
    cases h
    exact congrArg Host.Outcome.next (s.skipIf_withDraws _ n)
  | _ => cases h; rfl

/-- A Step that does not execute CXNN commutes with a change of the draw number. -/
theorem step_withDraws {s t : State} (hrnd : s.mode = .run → ∀ x nn, decode s.fetchWord ≠ .instr (.rnd x nn))
    (h : step s = .next t) (n : Nat) : step (s.withDraws n) = .next (t.withDraws n) := by
  obtain ⟨hm, i, hi, hexec⟩ | ⟨hm, ⟨why, hwhy⟩, rfl⟩ | ⟨hm, rfl⟩ | ⟨hm, rfl⟩ := step_cases h
  · have hne : ∀ x nn, i ≠ .rnd x nn := fun x nn hx => hrnd hm x nn (hx ▸ hi)
    exact (step_of_instr (s := s.withDraws n) hm hi).trans (exec_withDraws hne hexec n)
  · exact (step_of_run (s := s.withDraws n) hm).trans (executeWord_unknown (op := s.fetchWord) hwhy _)
  · rw [← State.resumeWait_withDraws]
    exact step_of_wait (s := s.withDraws n) hm
  · exact step_of_halted (s := t.withDraws n) hm

theorem State.readV_writeDraw_same (s : State) (draw : Byte) (x : Reg) (nn : Byte) :
    (s.writeDraw draw x nn).readV x = draw &&& nn :=
  s.readV_writeV_same x (draw &&& nn)

theorem State.readV_writeDraw_other (s : State) (draw : Byte) {x r : Reg} (nn : Byte) (h : r ≠ x) :
    (s.writeDraw draw x nn).readV r = s.readV r :=
  s.readV_writeV_other h (draw &&& nn)

/-- Settles O13: every other Step commutes with a change of the draw number, and CXNN masks its draw into VX. -/
theorem stepDependsOnDrawOnlyForRnd : Obligations.StepDependsOnDrawOnlyForRnd := by
  refine ⟨fun s t n hrnd h => step_withDraws hrnd h n, fun s x nn hrun hi => ?_⟩
  exact ⟨s.advancePc.writeDraw (Config.rnd s.draws) x nn, step_of_instr hrun hi,
    s.advancePc.readV_writeDraw_same _ x nn, fun r hr => s.advancePc.readV_writeDraw_other _ nn hr, rfl⟩

/-- Settles O22: the masked draw has no bit outside the mask. -/
theorem rndMasksAFreshDraw : Obligations.RndMasksAFreshDraw := by
  intro x nn s
  have hvx : (s.writeDraw (Config.rnd s.draws) x nn).readV x = Config.rnd s.draws &&& nn := s.readV_writeDraw_same _ x nn
  refine ⟨s.writeDraw (Config.rnd s.draws) x nn, rfl, hvx, fun k hk => ?bits, fun hnn => ?zero,
    fun r hr => s.readV_writeDraw_other _ nn hr, fun _ => rfl, rfl, rfl⟩
  case bits => rw [hvx, BitVec.getLsbD_and, hk, Bool.and_false]
  case zero => rw [hvx, hnn]; exact BitVec.and_zero

/-! ## The registers only the host reads (10_state.md R34, R38-R41) -/

/-- `s` with the host's records of `r`. -/
def State.withRecords (s r : State) : State :=
  { s with dirty := r.dirty, faultCode := r.faultCode, faultPc := r.faultPc, unkValid := r.unkValid, unkOp := r.unkOp,
           unkPc := r.unkPc }

namespace AgreeUpToHostRecords

/-- A state that agrees with `s` is `s` with its own records. -/
theorem eq_withRecords {s t : State} (h : AgreeUpToHostRecords s t) : t = s.withRecords t := h

variable (s r : State)

theorem skipIf (c : Bool) : AgreeUpToHostRecords (s.skipIf c) ((s.withRecords r).skipIf c) := by
  cases c <;> rfl

theorem popPc : AgreeUpToHostRecords s.popPc (s.withRecords r).popPc := by
  rcases Nat.eq_zero_or_pos s.sp.val with h | h
  · rw [State.popPc_underflow h, State.popPc_underflow (s := s.withRecords r) h]; rfl
  · rw [State.popPc_pop h, State.popPc_pop (s := s.withRecords r) h]; rfl

theorem callWith {depth : Nat} (hd : depth ≤ 16) (target : Word) :
    AgreeUpToHostRecords (s.callWith depth target) ((s.withRecords r).callWith depth target) := by
  rcases Nat.lt_or_ge s.sp.val depth with h | h
  · rw [State.callWith_push target h hd, State.callWith_push (s := s.withRecords r) target h hd]; rfl
  · rw [State.callWith_overflow target h, State.callWith_overflow (s := s.withRecords r) target h]; rfl

theorem resumeWait : AgreeUpToHostRecords s.resumeWait (s.withRecords r).resumeWait := by
  cases hv : s.kevValid with
  | false => rw [State.resumeWait_empty hv, State.resumeWait_empty (s := s.withRecords r) hv]; rfl
  | true => rw [State.resumeWait_event hv, State.resumeWait_event (s := s.withRecords r) hv]; rfl

variable {s}

/-- No instruction can observe the host's records. -/
theorem exec {i : Instr} {s' : State} (h : Machine.exec i s = .next s') :
    ∃ t', Machine.exec i (s.withRecords r) = .next t' ∧ AgreeUpToHostRecords s' t' := by
  cases i with
  | ret => cases h; exact ⟨_, rfl, popPc s r⟩
  | call nnn => cases h; exact ⟨_, rfl, callWith s r (by decide) _⟩
  | seImm | sneImm | seReg | sneReg | skp | sknp => cases h; exact ⟨_, rfl, skipIf s r _⟩
  | _ => cases h; exact ⟨_, rfl, rfl⟩

/-- No Step can observe the host's records. -/
theorem step {s' : State} (h : Machine.step s = .next s') :
    ∃ t', Machine.step (s.withRecords r) = .next t' ∧ AgreeUpToHostRecords s' t' := by
  obtain ⟨hm, i, hi, hexec⟩ | ⟨hm, ⟨why, hwhy⟩, rfl⟩ | ⟨hm, rfl⟩ | ⟨hm, rfl⟩ := step_cases h
  · rw [step_of_instr (s := s.withRecords r) hm hi]
    exact exec r hexec
  · rw [step_of_run (s := s.withRecords r) hm]
    exact ⟨_, executeWord_unknown (op := s.fetchWord) hwhy _, rfl⟩
  · exact ⟨_, step_of_wait (s := s.withRecords r) hm, resumeWait s r⟩
  · exact ⟨_, step_of_halted (s := s'.withRecords r) hm, rfl⟩

end AgreeUpToHostRecords

/-- Settles O56: every operation gives the same state on other records, up to the records it leaves. -/
theorem hostRecordsUnobservable : Obligations.HostRecordsUnobservable := by
  intro s t s' hagree h
  rw [hagree.eq_withRecords]
  exact AgreeUpToHostRecords.step t h

/-! ## Reading back what FX55 stored (43_index_memory.md section 3; 20_memory.md section 6) -/

/-- Addresses that decode to the same byte read alike (20_memory.md R62). -/
theorem Memory.read_congr (m : Memory) {a b : Nat} (h : decodeAddress a = decodeAddress b) :
    Memory.read m a = Memory.read m b :=
  congrArg (Memory.readCell m) h

theorem decodeAddress_succ {a b : Nat} (h : decodeAddress a = decodeAddress b) :
    decodeAddress (a + 1) = decodeAddress (b + 1) :=
  Nat.ModEq.add_right 1 h

/-- Settles O34: FX65 reads register `k` at `I + k`, where FX55 left it. -/
theorem storedRegistersLoadBack : Obligations.StoredRegistersLoadBack := by
  intro x s hm
  refine ⟨s.storeBytes (s.indirect 0) (s.firstRegs x), rfl, fun u hmem hi => ⟨u.loadRegs x, rfl, fun k hk => ?_⟩⟩
  rw [State.readV_loadRegs, if_pos hk, hmem, hi]
  exact State.read_storeBytes_firstRegs hm hk

/-- Settles O35: the fetch reads its two bytes where FX55 left registers `k` and `k + 1`, even across the end of memory. -/
theorem fetchSeesStoredCode : Obligations.FetchSeesStoredCode := by
  intro x s t u hm h hmem k k' hk' hx hpc
  obtain rfl : s.storeBytes (s.indirect 0) (s.firstRegs x) = t := Host.Outcome.next.inj h
  have hk : k ≤ x := by rw [Fin.le_def] at hx ⊢; omega
  have hnext : decodeAddress (u.pc.toNat + 1) = decodeAddress (s.indirect k'.val) := by
    rw [hk']
    exact decodeAddress_succ hpc
  rw [State.fetchWord, Memory.wordAt, hmem, Memory.read_congr _ hpc, Memory.read_congr _ hnext,
    State.read_storeBytes_firstRegs hm hk, State.read_storeBytes_firstRegs hm hx]

/-! ## The canonical form of memory (log 5) -/

/-- The first entry's address reads otherwise than the reset contents. -/
theorem Memory.readCell_head_ne {lo a : Nat} {v : Byte} {m : Memory} (hm : Memory.wfFrom lo ((a, v) :: m) = true) :
    Memory.readCell ((a, v) :: m) a ≠ Memory.background a := by
  obtain ⟨-, -, hv, -⟩ := Memory.wfFrom_cons.1 hm
  rwa [Memory.readCell, if_pos rfl]

/-- Of two canonical memories that read alike, the second lists no address below the first one's first entry. -/
theorem Memory.head_le_head {lo lo' a b : Nat} {v w : Byte} {m m' : Memory}
    (hm : Memory.wfFrom lo ((a, v) :: m) = true) (hm' : Memory.wfFrom lo' ((b, w) :: m') = true)
    (hread : Memory.readCell ((a, v) :: m) b = Memory.readCell ((b, w) :: m') b) : a ≤ b := by
  obtain ⟨-, hrest⟩ := Memory.wfFrom_cons.1 hm
  have hfrom : Memory.wfFrom a ((a, v) :: m) = true := Memory.wfFrom_cons.2 ⟨le_rfl, hrest⟩
  refine not_lt.1 fun hlt => Memory.readCell_head_ne hm' ?_
  rw [← hread, Memory.readCell_below hfrom hlt]

/-- Canonical memories that read alike at every cell are equal, by induction on the first and cases on the second. -/
theorem Memory.eq_of_readCell_eq {lo lo' : Nat} {m m' : Memory} (hm : Memory.wfFrom lo m = true)
    (hm' : Memory.wfFrom lo' m' = true) (hread : ∀ a < Config.memSize, Memory.readCell m a = Memory.readCell m' a) :
    m = m' := by
  induction m generalizing lo lo' m' with
  | nil =>
    cases m' with
    | nil => rfl
    | cons c' m' =>
      obtain ⟨-, hb, -, -⟩ := Memory.wfFrom_cons.1 hm'
      exact absurd (hread _ hb).symm (Memory.readCell_head_ne hm')
  | cons c m ih =>
    obtain ⟨a, v⟩ := c
    obtain ⟨-, ha, -, htail⟩ := Memory.wfFrom_cons.1 hm
    cases m' with
    | nil => exact absurd (hread a ha) (Memory.readCell_head_ne hm)
    | cons c' m' =>
      obtain ⟨b, w⟩ := c'
      obtain ⟨-, hb, -, htail'⟩ := Memory.wfFrom_cons.1 hm'
      obtain rfl : a = b :=
        le_antisymm (Memory.head_le_head hm hm' (hread b hb)) (Memory.head_le_head hm' hm (hread a ha).symm)
      have hvw : v = w := by simpa [Memory.readCell] using hread a ha
      have hrest : m = m' := by
        refine ih htail htail' fun c hc => ?_
        rcases eq_or_ne a c with rfl | hne
        · rw [Memory.readCell_below htail a.lt_succ_self, Memory.readCell_below htail' a.lt_succ_self]
        · simpa [Memory.readCell, hne] using hread c hc
      rw [hvw, hrest]

/-- Settles O36: an address below 4096 decodes to itself, so memories that read alike are alike in every cell. -/
theorem equalMemoriesAreEqualData : Obligations.EqualMemoriesAreEqualData := by
  intro m m' hm hm' hread
  refine Memory.eq_of_readCell_eq hm hm' fun a ha => ?_
  have hcell : Memory.readCell m (decodeAddress a) = Memory.readCell m' (decodeAddress a) := hread a
  rwa [decodeAddress, Nat.mod_eq_of_lt ha] at hcell

/-! ## The glyph of a digit after Load (43_index_memory.md R193, 70_reset_and_hazards.md R290) -/

/-- Settles O40: byte `j` of the glyph lies in the font's range, which holds the font after Load. -/
theorem glyphAddressReadsFont : Obligations.GlyphAddressReadsFont := by
  intro font image s u x hfont himage hmem
  have hfont : font.length = Config.fontSize := beq_iff_eq.1 hfont
  have himage : image.length ≤ Config.maxImage := of_decide_eq_true himage
  refine ⟨u.setI (glyphAddress (u.readV x)), rfl, fun j hj => ?_⟩
  have haddr : (u.setI (glyphAddress (u.readV x))).indirect j = Config.fontBase + (5 * ((u.readV x).toNat % 16) + j) := by
    rw [State.indirect, State.setI_i, toNat_glyphAddress, Nat.add_assoc]
    rfl
  have hin : 5 * ((u.readV x).toNat % 16) + j < Config.fontSize := by
    rw [Config.fontSize]
    omega
  have hlt : Config.fontBase + (5 * ((u.readV x).toNat % 16) + j) < Config.memSize := by
    rw [Config.fontSize] at hin
    rw [Config.fontBase, Config.memSize]
    omega
  rw [State.setI_mem, hmem, loadWith_ok font s himage, haddr, some_read_loadedMemory hfont himage hlt,
    if_pos ⟨Nat.le_add_right _ _, Nat.add_lt_add_left hin _⟩, Nat.add_sub_cancel_left]

/-! ## Calls (41_flow.md R141, R143) -/

/-- Settles O28: below the depth the entry at SP is the one written, and at the depth the call enters the fault. -/
theorem callOnEveryDepthInRange : Obligations.CallOnEveryDepthInRange := by
  intro depth target s hdepth
  have hd : depth ≤ 16 := by
    rw [stackDepthInRange, Bool.and_eq_true] at hdepth
    exact of_decide_eq_true hdepth.2
  refine ⟨fun hlt => ⟨⟨s.sp.val, hlt.trans_le hd⟩, rfl, ?top, ?rest⟩, fun hfull => ?full, fun _ => rfl⟩
  case top => rw [State.getElem_stack_callWith target hlt hd, if_pos rfl]
  case rest => rw [State.callWith_push target hlt hd]; exact ⟨rfl, rfl, rfl⟩
  case full => exact State.callWith_overflow target hfull.ge

/-- Settles O29: the return reads the entry below SP, which is the one the call wrote. -/
theorem callThenReturnResumesAfterCall : Obligations.CallThenReturnResumesAfterCall := by
  intro nnn s hlt
  refine ⟨_, congrArg Host.Outcome.next (State.callWith_push _ hlt (by decide)), fun u hstack hsp => ?_⟩
  have hpos : 0 < u.sp.val := by rw [hsp]; exact Nat.succ_pos _
  refine ⟨_, congrArg Host.Outcome.next (State.popPc_pop hpos), ?pc, ?sp⟩
  case pc => simp [hstack, hsp]
  case sp => simp [hsp]

/-! ## Drawing twice (44_display.md R212) -/

/-- A sprite drawn on the first drawing of itself, from the same operands, covers the same pixels and inverts them back. -/
theorem Drawing.Inverts.twice {P : Fin 64 → Fin 32 → Prop} {d d' e e' : Drawing} (h : Inverts P d d') (hfb : e.fb = d'.fb)
    (h' : Inverts P e e') : e'.fb = d.fb := by
  refine Display.ext fun px py => ?_
  by_cases hp : P px py
  · rw [h'.inside hp, hfb, h.inside hp, Bool.not_not]
  · rw [h'.outside hp, hfb, h.outside hp]

theorem flagByte_eq_one_iff (f : Bool) : flagByte f = 1 ↔ f = true := by
  cases f <;> decide

/-- VF is 1 after DXYN exactly when its drawing collided. -/
theorem State.readV_vf_drawSprite_eq_one_iff (s : State) (x y : Reg) (n : Nat) :
    (s.drawSprite x y n).readV 15 = 1 ↔ (s.spriteDrawing x y n).collide = true :=
  (iff_of_eq (congrArg (· = 1) (s.readV_vf_drawSprite x y n))).trans (flagByte_eq_one_iff _)

/-- Settles O39: the second draw covers the same pixels, since VX, VY, I and memory are as before, and a covered pixel is on
after the first draw exactly when it was off before it. -/
theorem drawingTwiceRestoresDisplay : Obligations.DrawingTwiceRestoresDisplay := by
  intro x y n s hx hy
  have hfirst := s.spriteDrawing_inverts x y n
  have hsecond := (s.drawSprite x y n.toNat).spriteDrawing_inverts x y n
  have hcollide := (s.drawSprite x y n.toNat).collide_spriteDrawing x y n
  rw [s.readV_drawSprite x y x n.toNat hx, s.readV_drawSprite x y y n.toNat hy] at hsecond hcollide
  refine ⟨s.drawSprite x y n.toNat, (s.drawSprite x y n.toNat).drawSprite x y n.toNat, rfl, rfl,
    Drawing.Inverts.twice (e := ⟨(s.drawSprite x y n.toNat).fb, false⟩) hfirst rfl hsecond, ?vf⟩
  case vf =>
    rw [State.readV_vf_drawSprite_eq_one_iff, hcollide]
    refine exists_congr fun px => exists_congr fun py => and_congr_right fun hp => ?_
    rw [State.fb_drawSprite, hfirst.inside hp, Bool.not_eq_true']

/-! ## The key wait (45_keypad_timer.md R236; 60_exceptions.md R272) -/

/-- `s` in the wait of FX0A at PC, before an event. -/
def State.waiting (s : State) (x : Reg) : State := { s with waitX := x, kevValid := false, mode := .waitKey }

/-- `s` in the wait of FX0A at PC, with the event of key `k` latched. -/
def State.latched (s : State) (x : Reg) (k : Nibble) : State :=
  { s with waitX := x, kevValid := true, kevKey := k, mode := .waitKey }

/-- FX0A right after the fetch advance leaves PC at its own address. -/
theorem State.enterWait_advancePc (s : State) (x : Reg) : s.advancePc.enterWait x = s.waiting x := by
  have hipc : s.advancePc.ipc = s.pc := s.ipc_setPc_add_two s.pc
  rw [enterWait, hipc]
  rfl

theorem step_keyWait {s : State} {x : Reg} (hrun : s.mode = .run) (hi : decode s.fetchWord = .instr (.ldXK x)) :
    step s = .next (s.waiting x) := by
  rw [step_of_instr hrun hi, ← s.enterWait_advancePc x]
  rfl

/-- Settles O42: the execution undoes the fetch advance. -/
theorem keyWaitEnters : Obligations.KeyWaitEnters := fun _ _ => ⟨rfl, step_keyWait⟩

theorem step_waiting (s : State) (x : Reg) : step (s.waiting x) = .next (s.waiting x) := by
  rw [step_of_wait rfl, State.resumeWait_empty rfl]

theorem keyPress_waiting (k : Nibble) (s : State) (x : Reg) : keyPress k (s.waiting x) = s.latched x k :=
  keyPress_latched k rfl rfl

theorem keyPress_latched_discarded (k' : Nibble) (s : State) (x : Reg) (k : Nibble) :
    keyPress k' (s.latched x k) = s.latched x k :=
  keyPress_discarded k' (.inr rfl)

/-- The Step after the event stores its key and goes on after the instruction. -/
theorem step_latched (s : State) (x : Reg) (k : Nibble) :
    step (s.latched x k) = .next { s.writeV x (k.setWidth 8) with
      waitX := x, kevValid := false, kevKey := k, pc := s.pc + 2, mode := .run } := by
  rw [step_of_wait rfl, State.resumeWait_event rfl]
  rfl

theorem runSchedule_step {s t : State} (trs : List Transaction) (h : step s = .next t) :
    runSchedule (.step :: trs) s = runSchedule trs t :=
  runSchedule_cons trs h

theorem runSchedule_keyPress {s t : State} {k : Nibble} (trs : List Transaction) (h : keyPress k s = t) :
    runSchedule (.keyPress k :: trs) s = runSchedule trs t :=
  runSchedule_cons trs (congrArg Host.Outcome.next h)

/-- A wait with a key event before it and two inside it stores the first of the two. -/
theorem runSchedule_keyWait {s : State} {x : Reg} (k0 k k' : Nibble) (mask : Word) (hrun : s.mode = .run)
    (hi : decode s.fetchWord = .instr (.ldXK x)) :
    runSchedule [.keyPress k0, .step, .step, .tick, .setKeys mask, .step, .keyPress k, .keyPress k', .step] s =
      .next { (setKeys mask (tick s)).writeV x (k.setWidth 8) with
        waitX := x, kevValid := false, kevKey := k, pc := s.pc + 2, mode := .run } := by
  have hearly : keyPress k0 s = s := keyPress_discarded k0 (.inl (by rw [hrun]; decide))
  rw [runSchedule_keyPress _ hearly, runSchedule_step _ (step_keyWait hrun hi), runSchedule_step _ (step_waiting s x),
    runSchedule_cons (t := (tick s).waiting x) _ rfl, runSchedule_cons (t := (setKeys mask (tick s)).waiting x) _ rfl,
    runSchedule_step _ (step_waiting _ x), runSchedule_keyPress _ (keyPress_waiting k _ x),
    runSchedule_keyPress _ (keyPress_latched_discarded k' _ x k), runSchedule_step _ (step_latched _ x k), runSchedule]
  rfl

/-- Settles O43: after the schedule the latched key is in VX and the timers are one Tick lower. -/
theorem keyWaitStoresFirstEvent : Obligations.KeyWaitStoresFirstEvent := by
  intro s x k0 k k' mask hrun hi
  refine ⟨_, runSchedule_keyWait k0 k k' mask hrun hi, ?key,
    fun r hr => State.readV_writeV_other _ hr _, toNat_tickTimer s.dt, toNat_tickTimer s.st, ?frame⟩
  case key =>
    have hkey := (setKeys mask (tick s)).readV_writeV_same x (k.setWidth 8)
    exact (congrArg BitVec.toNat hkey).trans (BitVec.toNat_setWidth_of_le (by decide))
  case frame => rw [← hrun]; rfl

/-! ## The reset state (10_state.md R47) -/

/-- Settles O51: reset's registers as defined, and the memory of an empty Load, which holds the hardware's font. -/
theorem resetStateValues : Obligations.ResetStateValues := by
  refine ⟨State.readV_reset, rfl, rfl, rfl, State.getElem_stack_reset, rfl, rfl, rfl, rfl, rfl, rfl, rfl, rfl, rfl, rfl, rfl,
    rfl, rfl, State.pixel_fb_reset, fun k hk => ?font, fun a ha hout => Memory.read_nil_of_not_font ha hout⟩
  case font =>
    have hlt : Config.fontBase + k < Config.memSize := by
      rw [Config.fontBase, Config.memSize]
      omega
    have hread := some_read_loadedMemory (font := Config.font) (image := []) (by decide) (Nat.zero_le _) hlt
    rw [loadedMemory_font_nil, if_pos ⟨Nat.le_add_right _ _, Nat.add_lt_add_left hk _⟩, Nat.add_sub_cancel_left] at hread
    exact hread.symm

/-! ## The invariant (10_state.md R24, R28, R36-R40; 60_exceptions.md R251-R253, R272) -/

/-- The part of the invariant that does not speak of STATE, in a state with no recorded fault. -/
structure State.NoFault (s : State) : Prop where
  memory : Memory.wf s.mem = true
  faultCode : s.faultCode = .none
  faultPc : s.faultPc = 0
  unknown : s.unkValid = true → ∃ why, decode s.unkOp = .rejected why
  noUnknown : s.unkValid = false → s.unkOp = 0 ∧ s.unkPc = 0

/-- SP has no number above the hardware's STACK_DEPTH. -/
theorem State.sp_le_stackDepth (s : State) : s.sp.val ≤ Config.stackDepth := Nat.le_of_lt_succ s.sp.isLt

namespace State.Inv

variable {s t : State}

/-- A state that is not halted has no recorded fault. -/
theorem noFault_of_not_halted (h : s.Inv) (hm : s.mode ≠ .halted) : s.NoFault := by
  have hcode : s.faultCode = .none := not_not.1 fun hne => hm (h.halted.2 hne)
  exact ⟨h.memory, hcode, h.noFault hcode, h.unknown, h.noUnknown⟩

theorem noFault_of_run (h : s.Inv) (hrun : s.mode = .run) : s.NoFault :=
  h.noFault_of_not_halted (by rw [hrun]; decide)

theorem noFault_of_wait (h : s.Inv) (hm : s.mode = .waitKey) : s.NoFault :=
  h.noFault_of_not_halted (by rw [hm]; decide)

/-- In RUN no key event is latched. -/
theorem kevValid_of_run (h : s.Inv) (hrun : s.mode = .run) : s.kevValid = false :=
  Bool.eq_false_iff.2 fun hv => nomatch hrun.symm.trans (h.latch hv)

/-- The invariant does not speak of the timers, KEYS and DIRTY. -/
theorem of_frame (h : s.Inv) (ht : t = { s with dt := t.dt, st := t.st, keys := t.keys, dirty := t.dirty }) : t.Inv := by
  rw [ht]
  exact ⟨h.memory, h.stackBound, h.latch, h.waiting, h.halted, h.haltedPc, h.underflow, h.overflow, h.noFault, h.unknown,
    h.noUnknown⟩

end State.Inv

namespace State.NoFault

variable {s t : State}

/-- A state with the memory and the records of `s` has no recorded fault either. -/
theorem of_frame (h : s.NoFault)
    (ht : t = { t with mem := s.mem, faultCode := s.faultCode, faultPc := s.faultPc, unkValid := s.unkValid,
                       unkOp := s.unkOp, unkPc := s.unkPc }) : t.NoFault := by
  rw [ht]
  exact ⟨h.memory, h.faultCode, h.faultPc, h.unknown, h.noUnknown⟩

/-- In RUN and in WAIT_KEY the rest of the invariant is about the latch and the instruction being waited on. -/
theorem inv_of_not_halted (h : s.NoFault) (hm : s.mode ≠ .halted) (hlatch : s.kevValid = true → s.mode = .waitKey)
    (hwait : s.mode = .waitKey → decode s.fetchWord = .instr (.ldXK s.waitX)) : s.Inv where
  memory := h.memory
  stackBound := s.sp_le_stackDepth
  latch := hlatch
  waiting := hwait
  halted := iff_of_false hm (not_not.2 h.faultCode)
  haltedPc := fun hhalted => absurd hhalted hm
  underflow := by simp [h.faultCode]
  overflow := by simp [h.faultCode]
  noFault _ := h.faultPc
  unknown := h.unknown
  noUnknown := h.noUnknown

theorem inv_of_run (h : s.NoFault) (hrun : s.mode = .run) (hv : s.kevValid = false) : s.Inv :=
  h.inv_of_not_halted (by simp [hrun]) (by simp [hv]) (by simp [hrun])

theorem inv_of_wait (h : s.NoFault) (hm : s.mode = .waitKey) (hi : decode s.fetchWord = .instr (.ldXK s.waitX)) :
    s.Inv :=
  h.inv_of_not_halted (by simp [hm]) (fun _ => hm) (fun _ => hi)

/-- A stack fault of the instruction at PC, for a reason that holds, meets the invariant. -/
theorem inv_raiseFault (h : s.NoFault) (hv : s.kevValid = false) {code : FaultCode} (hcode : code ≠ .none)
    (hunder : code = .stackUnderflow → s.sp.val = 0 ∧ decode s.fetchWord = .instr .ret)
    (hover : code = .stackOverflow →
      s.sp.val = Config.stackDepth ∧ ∃ nnn, decode s.fetchWord = .instr (.call nnn)) :
    (s.advancePc.raiseFault code).Inv := by
  rw [raiseFault_advancePc]
  exact {
    memory := h.memory
    stackBound := s.sp_le_stackDepth
    latch := by simp [hv]
    waiting := nofun
    halted := by simp [hcode]
    haltedPc _ := rfl
    underflow := hunder
    overflow := hover
    noFault hnone := absurd hnone hcode
    unknown := h.unknown
    noUnknown := h.noUnknown }

/-- The unknown word of the Step is recorded truthfully. -/
theorem recordUnknown (h : s.NoFault) {op : Word} (hop : ∃ why, decode op = .rejected why) :
    (s.recordUnknown op).NoFault :=
  ⟨h.memory, h.faultCode, h.faultPc, fun _ => hop, nofun⟩

end State.NoFault

/-- Execution keeps the canonical form of memory: only FX33 and FX55 write memory, each by a block store. -/
theorem exec_keeps_wf {i : Instr} {s t : State} (h : exec i s = .next t) (hm : Memory.wf s.mem = true) :
    Memory.wf t.mem = true := by
  obtain ⟨-, hwriters, -⟩ := onlyNamedInstructionsWriteState i s t h
  by_cases hmem : t.mem = s.mem
  · rwa [hmem]
  · obtain ⟨x, rfl⟩ | ⟨x, rfl⟩ := hwriters hmem <;>
    · cases h
      exact State.wf_storeBytes _ _ hm

/-- An instruction other than 00EE, 2NNN and FX0A keeps what the invariant says of RUN. -/
theorem exec_keeps_noFault {i : Instr} {s t : State} (h : exec i s = .next t) (hret : i ≠ .ret)
    (hcall : ∀ nnn, i ≠ .call nnn) (hwait : ∀ x, i ≠ .ldXK x) (hs : s.NoFault) :
    t.NoFault ∧ t.mode = s.mode ∧ t.kevValid = s.kevValid := by
  obtain ⟨-, -, -, -, -, -, -, hmode, hfault, hlatch, -, -, hvalid, hop, hpc⟩ := onlyNamedInstructionsWriteState i s t h
  have hstack : ¬ (i = .ret ∨ ∃ nnn, i = .call nnn) := not_or.2 ⟨hret, not_exists.2 hcall⟩
  have hkey : ¬ ∃ x, i = .ldXK x := not_exists.2 hwait
  have hmode' : t.mode = s.mode := not_not.1 (mt hmode (by rwa [← or_assoc, or_iff_right hstack]))
  obtain ⟨hcode, hfaultPc⟩ : t.faultCode = s.faultCode ∧ t.faultPc = s.faultPc := by simpa using mt hfault hstack
  obtain ⟨-, hv⟩ : t.waitX = s.waitX ∧ t.kevValid = s.kevValid := by simpa using mt hlatch hkey
  refine ⟨⟨exec_keeps_wf h hs.memory, hcode.trans hs.faultCode, hfaultPc.trans hs.faultPc, ?unknown, ?noUnknown⟩, hmode', hv⟩
  case unknown => rw [hvalid, hop]; exact hs.unknown
  case noUnknown => rw [hvalid, hop, hpc]; exact hs.noUnknown

/-! ## The invariant under a Step -/

namespace State.Inv

variable {s t : State}

/-- 00EE pops, or meets an empty stack. -/
theorem popPc (h : s.Inv) (hrun : s.mode = .run) (hi : decode s.fetchWord = .instr .ret) : s.advancePc.popPc.Inv := by
  have hs : s.NoFault := h.noFault_of_run hrun
  have hv : s.kevValid = false := h.kevValid_of_run hrun
  rcases Nat.eq_zero_or_pos s.sp.val with hempty | hpos
  · rw [State.popPc_underflow (s := s.advancePc) hempty]
    exact hs.inv_raiseFault hv (by decide) (fun _ => ⟨hempty, hi⟩) nofun
  · rw [State.popPc_pop (s := s.advancePc) hpos]
    exact (hs.of_frame rfl).inv_of_run hrun hv

/-- 2NNN pushes, or meets a full stack. -/
theorem callWith (h : s.Inv) (hrun : s.mode = .run) {nnn : Addr12} (hi : decode s.fetchWord = .instr (.call nnn))
    (target : Word) : (s.advancePc.callWith Config.stackDepth target).Inv := by
  have hs : s.NoFault := h.noFault_of_run hrun
  have hv : s.kevValid = false := h.kevValid_of_run hrun
  rcases s.sp_le_stackDepth.lt_or_eq with hlt | hfull
  · rw [State.callWith_push (s := s.advancePc) target hlt (by decide)]
    exact (hs.of_frame rfl).inv_of_run hrun hv
  · rw [State.callWith_overflow (s := s.advancePc) target hfull.ge]
    exact hs.inv_raiseFault hv (by decide) nofun fun _ => ⟨hfull, nnn, hi⟩

/-- FX0A starts a wait with PC back at itself. -/
theorem waiting_of_run (h : s.Inv) (hrun : s.mode = .run) {x : Reg} (hi : decode s.fetchWord = .instr (.ldXK x)) :
    (s.waiting x).Inv :=
  ((h.noFault_of_run hrun).of_frame rfl).inv_of_wait rfl hi

/-- The execution of the fetched instruction keeps the invariant. -/
theorem exec (h : s.Inv) (hrun : s.mode = .run) {i : Instr} (hi : decode s.fetchWord = .instr i)
    (hexec : Machine.exec i s.advancePc = .next t) : t.Inv := by
  by_cases hret : i = .ret
  · subst hret; cases hexec
    exact h.popPc hrun hi
  by_cases hcall : ∃ nnn, i = .call nnn
  · obtain ⟨nnn, rfl⟩ := hcall; cases hexec
    exact h.callWith hrun hi _
  by_cases hwait : ∃ x, i = .ldXK x
  · obtain ⟨x, rfl⟩ := hwait
    obtain rfl : s.waiting x = t :=
      (s.enterWait_advancePc x).symm.trans (Host.Outcome.next.inj hexec)
    exact h.waiting_of_run hrun hi
  have hadvance : s.advancePc.NoFault := (h.noFault_of_run hrun).of_frame rfl
  obtain ⟨ht, hmode, hv⟩ := exec_keeps_noFault hexec hret (not_exists.1 hcall) (not_exists.1 hwait) hadvance
  exact ht.inv_of_run (hmode.trans hrun) (hv.trans (h.kevValid_of_run hrun))

/-- A Step in WAIT_KEY keeps the invariant: the event takes it back to RUN with an empty latch. -/
theorem resumeWait (h : s.Inv) (hm : s.mode = .waitKey) : s.resumeWait.Inv := by
  cases hv : s.kevValid with
  | false => rwa [State.resumeWait_empty hv]
  | true =>
    rw [State.resumeWait_event hv]
    exact ((h.noFault_of_wait hm).of_frame rfl).inv_of_run rfl rfl

theorem step (h : s.Inv) (hstep : Machine.step s = .next t) : t.Inv := by
  obtain ⟨hrun, i, hi, hexec⟩ | ⟨hrun, hwhy, rfl⟩ | ⟨hm, rfl⟩ | ⟨-, rfl⟩ := step_cases hstep
  · exact h.exec hrun hi hexec
  · have hadvance : s.advancePc.NoFault := (h.noFault_of_run hrun).of_frame rfl
    exact (hadvance.recordUnknown hwhy).inv_of_run hrun (h.kevValid_of_run hrun)
  · exact h.resumeWait hm
  · exact h

end State.Inv

/-! ## The invariant under the other transactions -/

/-- The state of power-on, and of a successful Load, whatever its canonical memory, KEYS and draw number. -/
theorem State.inv_reset_with {m : Memory} (hm : Memory.wf m = true) (keys : Word) (draws : Nat) :
    { State.reset with mem := m, keys := keys, draws := draws }.Inv :=
  NoFault.inv_of_run ⟨hm, rfl, rfl, nofun, fun _ => ⟨rfl, rfl⟩⟩ rfl rfl

/-- Settles O52: reset's memory is canonical, and it is in RUN with no record. -/
theorem invariantHoldsAtReset : Obligations.InvariantHoldsAtReset := State.inv_reset_with Memory.wf_reset 0 0

namespace State.Inv

variable {s t : State}

theorem load (h : s.Inv) (image : List Byte) : (Machine.load image s).1.Inv := by
  rw [Machine.load]
  rcases Nat.lt_or_ge Config.maxImage image.length with hlong | hfits
  · rwa [loadWith_tooLarge _ _ hlong]
  · rw [loadWith_ok _ _ hfits]
    exact inv_reset_with (Memory.wf_loadedMemory _ _) _ _

/-- A latched event leaves the wait as it is. -/
theorem keyPress (h : s.Inv) (k : Nibble) : (Machine.keyPress k s).Inv := by
  by_cases hlatch : s.mode = .waitKey ∧ s.kevValid = false
  · obtain ⟨hm, hv⟩ := hlatch
    rw [keyPress_latched k hm hv]
    exact ((h.noFault_of_wait hm).of_frame rfl).inv_of_wait hm (h.waiting hm)
  · rw [Machine.keyPress, if_neg hlatch]
    exact h

theorem transact {tr : Transaction} (h : s.Inv) (htr : Machine.transact tr s = .next t) : t.Inv := by
  obtain ⟨image, -, rfl⟩ | ⟨-, hstep⟩ | ⟨-, rfl⟩ | ⟨mask, -, rfl⟩ | ⟨k, -, rfl⟩ | ⟨-, rfl⟩ := transact_cases htr
  · exact h.load image
  · exact h.step hstep
  · exact h.of_frame rfl
  · exact h.of_frame rfl
  · exact h.keyPress k
  · exact h.of_frame rfl

end State.Inv

/-- Settles O53: a Step keeps the invariant instruction by instruction, and so does each of the other transactions. -/
theorem stepKeepsInvariant : Obligations.StepKeepsInvariant :=
  ⟨fun _ _ h hstep => h.step hstep, fun _ _ _ h htr => h.transact htr⟩

/-- Settles O54: by induction on the schedule. -/
theorem reachableStatesMeetInvariant : Obligations.ReachableStatesMeetInvariant := by
  intro s hs
  induction hs with
  | powerOn => exact invariantHoldsAtReset
  | transaction _ tr htr ih => exact ih.transact htr

/-! ## Fixed points of the Step (70_reset_and_hazards.md R304, R305) -/

/-- A jump to the address it stands at leaves the state as it was. -/
theorem step_of_self_jump {s : State} {nnn : Addr12} (hrun : s.mode = .run) (hi : decode s.fetchWord = .instr (.jp nnn))
    (hpc : s.pc.toNat = nnn.toNat) : step s = .next s := by
  have htarget : addressOperand nnn = s.pc := BitVec.eq_of_toNat_eq ((toNat_addressOperand nnn).trans hpc.symm)
  have hback : s.advancePc.setPc s.pc = s := rfl
  rw [step_of_instr hrun hi, exec, execJp, htarget, hback]

/-- A state that a Step without CXNN leaves as it is, is so at every draw number. -/
theorem stepFixedPoint_of_step {s : State} (hrnd : s.mode = .run → ∀ x nn, decode s.fetchWord ≠ .instr (.rnd x nn))
    (h : step s = .next s) : StepFixedPoint s :=
  step_withDraws hrnd h

/-- Settles O57: none of the three Steps executes CXNN, and an end in RUN is not in WAIT_KEY or HALTED. -/
theorem stepFixedPoints : Obligations.StepFixedPoints := by
  refine ⟨fun s nnn hrun hi hpc => ⟨hrun, stepFixedPoint_of_step ?jpNotRnd (step_of_self_jump hrun hi hpc)⟩,
    fun s hm hv => ⟨stepFixedPoint_of_step ?waitNotRun ?wait, fun hend => nomatch hm.symm.trans hend.1⟩,
    fun s hm => ⟨stepFixedPoint_of_step ?haltedNotRun (step_of_halted hm), fun hend => nomatch hm.symm.trans hend.1⟩⟩
  case jpNotRnd => simp [hi]
  case waitNotRun => simp [hm]
  case wait => rw [step_of_wait hm, State.resumeWait_empty hv]
  case haltedNotRun => simp [hm]

/-! ## The placed instruction (log 4) -/

/-- The word fetched after placing an instruction is the instruction's. -/
theorem State.fetchWord_withFetchWord {s : State} (hm : Memory.wf s.mem = true) (i : Instr) :
    (s.withFetchWord 16 (encode i).toNat).fetchWord = encode i := by
  simp only [fetchWord, withFetchWord, tableWord_encode]
  exact Memory.wordAt_writeBytes s.pc (encode i) hm

/-- Settles O58: placing is a store of two bytes at PC, and the Step fetches them and decodes the instruction. -/
theorem placedInstructionRunsNext : Obligations.PlacedInstructionRunsNext := by
  intro i s hm
  refine ⟨?step, rfl, ?outside⟩
  case outside =>
    exact State.storeBytes_keptOutside s.pc.toNat
      [highByte (tableWord 16 (encode i).toNat), lowByte (tableWord 16 (encode i).toNat)] hm
  case step =>
    have hi : decode (s.withFetchWord 16 (encode i).toNat).fetchWord = .instr i := by
      rw [State.fetchWord_withFetchWord hm, decode_encode]
    exact step_of_instr rfl hi

end Sys2Proof.Machine
end
